-- ==== Sys2Proof/Word.lean ====
section
/-! DEFINITION. The two word types of the block and nothing else: bytes (A, X, Y, S, P, T and every memory cell)
and 16-bit words (PC and addresses), rules R8 and R20. -/

namespace Sys2Proof

/-- An 8-bit value: a register other than PC, or one memory cell (R8). -/
abbrev Byte := BitVec 8

/-- A 16-bit value: PC or an address (R8). -/
abbrev Word := BitVec 16

end Sys2Proof
end

