-- ==== Sys2Proof/Config.lean ====
section
/-! DEFINITION. What the spec leaves to the implementation: the six named parameters of rule R9, each with its default,
and the free values ("draws") that rules R147 and R272 give to no rule. -/

namespace Sys2Proof

/-- `JAM_PC` (R9, R231): where PC stands after an invalid opcode. -/
inductive JamPc where
  | atOpcode
  | afterOpcode
  deriving DecidableEq, Repr

/-- `DECIMAL_FLAGS` (R9, R143, R146): how ADC and SBC compute N, Z and V in decimal mode. -/
inductive DecimalFlags where
  | doc
  | nmos
  deriving DecidableEq, Repr

/-- `SBC_ARG_BUG` (R9, R145 to R147): whether decimal SBC follows its rule or gives draws. -/
inductive SbcArgBug where
  | fixed
  | unconstrained
  deriving DecidableEq, Repr

/-- `PULL_P` (R9, R129): how PLP and RTI load bits 4 and 5 of P. -/
inductive PullP where
  | verbatim
  | normalized
  deriving DecidableEq, Repr

/-- `JMP_IND_WRAP` (R9, R191): where `JMP ($xxFF)` takes its high byte from. -/
inductive JmpIndWrap where
  | nmos
  | linear
  deriving DecidableEq, Repr

/-- `RESET_P` (R9, R270): whether Reset also sets the I flag. -/
inductive ResetP where
  | doc
  | nmos
  deriving DecidableEq, Repr

/-- The implementation parameters of R9, one field each; a field's default is the spec's default.
A state carries one such record and no transition changes it, so a statement about every state
quantifies over every choice of the parameters. -/
structure Config where
  jamPc        : JamPc        := .atOpcode
  decimalFlags : DecimalFlags := .doc
  sbcArgBug    : SbcArgBug    := .fixed
  pullP        : PullP        := .verbatim
  jmpIndWrap   : JmpIndWrap   := .nmos
  resetP       : ResetP       := .doc
  deriving DecidableEq, Repr

/-- The draws of a decimal SBC under `SBC_ARG_BUG = unconstrained` (R147): the `n`-th free byte. It has no body, so
nothing in Lean can say which byte it is (log entry 6). -/
opaque Config.freeByte : Nat → Byte

/-- The draw of T after Reset (R272): some count in `0x00`-`0xFE`, the only limit the spec puts on it. It has no
body (log entry 5). -/
opaque Config.freeResetCount : Nat → Fin 255

end Sys2Proof
end

