-- ==== Sys2Proof/Machine/Memory.lean ====
section
/-! DEFINITION. The flat 64 KiB memory (20_memory.md section 1) as a list of cells in one canonical form: addresses
strictly rising, each below 65536, and no cell that holds what an unlisted address reads as. -/

namespace Sys2Proof.Machine

/-- The bytes of memory that are listed; every other address reads as `Memory.unlisted`. -/
abbrev Memory := List Host.Cell

/-- What an unlisted address reads as. The initial image is the host's (R274), so this byte is the model's choice
(DESIGN CHOICE, log entry 3). -/
def Memory.unlisted : Byte := 0x00

/-- The number of addresses (R8). -/
def Memory.size : Nat := 65536

/-- The byte at an address. -/
def Memory.read : Memory → Nat → Byte
  | [], _ => Memory.unlisted
  | (k, b) :: rest, a => if k = a then b else Memory.read rest a

/-- Memory with no cell for address `a`. -/
def Memory.erase : Memory → Nat → Memory
  | [], _ => []
  | (k, b) :: rest, a => if k = a then Memory.erase rest a else (k, b) :: Memory.erase rest a

/-- Puts a cell before the first listed address above its own. -/
def Memory.insert : Memory → Nat → Byte → Memory
  | [], a, v => [(a, v)]
  | (k, b) :: rest, a, v => if a < k then (a, v) :: (k, b) :: rest else (k, b) :: Memory.insert rest a v

/-- Memory after one byte is written; writing the byte an unlisted address reads as removes the cell. -/
def Memory.write (m : Memory) (a : Nat) (v : Byte) : Memory :=
  if v = Memory.unlisted then Memory.erase m a else Memory.insert (Memory.erase m a) a v

/-- Every listed address is at least `lo`, they rise strictly and stay below `Memory.size`, and no cell holds the
unlisted byte. -/
def Memory.wfFrom : Nat → Memory → Bool
  | _, [] => true
  | lo, (k, b) :: rest =>
    decide (lo ≤ k) && decide (k < Memory.size) && decide (b ≠ Memory.unlisted) && Memory.wfFrom (k + 1) rest

/-- The canonical form: two memories in it that read alike everywhere are the same list. -/
def Memory.wf (m : Memory) : Bool := Memory.wfFrom 0 m

end Sys2Proof.Machine
end

