-- ==== Sys2Proof/Syntax.lean ====
section
/-! DEFINITION. The instructions as data: the addressing modes of rule R61, the operand forms, and `Instr` with one
constructor per instruction of the opcode table. A row of the table is a constructor together with the addressing mode
of its operand; JMP's two rows are two rules (R190, R191) and two constructors; the 105 JAM rows are one constructor
that keeps the opcode byte. -/

namespace Sys2Proof

/-- The names of the addressing modes (R61), and `invalid`, the table's format of a JAM row. -/
inductive Mode where
  | impl | acc | imm | zp | zpX | zpY | abs | absX | absY | ind | indX | indY | rel | invalid
  deriving DecidableEq, Repr

/-- An operand in memory, with its operand bytes (R61): `indX` is `(zp,X)` and `indY` is `(zp),Y`. -/
inductive Address where
  | zp   (z : Byte)
  | zpX  (z : Byte)
  | zpY  (z : Byte)
  | abs  (a : Word)
  | absX (a : Word)
  | absY (a : Word)
  | indX (z : Byte)
  | indY (z : Byte)
  deriving DecidableEq, Repr

/-- An operand that is only read: the byte in the instruction (`#`), or one in memory. -/
inductive Source where
  | imm (v : Byte)
  | mem (m : Address)
  deriving DecidableEq, Repr

/-- An operand that a shift or rotate reads and writes: A, or a byte in memory (R174 to R177). -/
inductive Target where
  | acc
  | mem (m : Address)
  deriving DecidableEq, Repr

/-- The instructions of the 6502 documented set, and `jam` for the invalid opcodes (R83, R84). -/
inductive Instr where
  -- loads and stores, R100 to R105
  | lda (o : Source)
  | ldx (o : Source)
  | ldy (o : Source)
  | sta (m : Address)
  | stx (m : Address)
  | sty (m : Address)
  -- transfers and stack, R120 to R129
  | tax
  | tay
  | txa
  | tya
  | tsx
  | txs
  | pha
  | php
  | pla
  | plp
  -- arithmetic, compare, increment and decrement, R141 to R156
  | adc (o : Source)
  | sbc (o : Source)
  | cmp (o : Source)
  | cpx (o : Source)
  | cpy (o : Source)
  | inc (m : Address)
  | dec (m : Address)
  | inx
  | iny
  | dex
  | dey
  -- logic, bit test, shifts and rotates, R170 to R177
  | and (o : Source)
  | ora (o : Source)
  | eor (o : Source)
  | bit (m : Address)
  | asl (t : Target)
  | lsr (t : Target)
  | rol (t : Target)
  | ror (t : Target)
  -- jumps, subroutines, branches, BRK and RTI, R190 to R205
  | jmp (a : Word)
  | jmpInd (ptr : Word)
  | jsr (a : Word)
  | rts
  | bcc (off : Byte)
  | bcs (off : Byte)
  | beq (off : Byte)
  | bne (off : Byte)
  | bmi (off : Byte)
  | bpl (off : Byte)
  | bvc (off : Byte)
  | bvs (off : Byte)
  | brk
  | rti
  -- flag instructions and NOP, R220 to R227
  | clc
  | sec
  | cli
  | sei
  | cld
  | sed
  | clv
  | nop
  -- the invalid opcodes, R230 and R231
  | jam (op : Byte)
  deriving DecidableEq, Repr

/-- The mode of a memory operand. -/
def Address.mode : Address → Mode
  | .zp _   => .zp
  | .zpX _  => .zpX
  | .zpY _  => .zpY
  | .abs _  => .abs
  | .absX _ => .absX
  | .absY _ => .absY
  | .indX _ => .indX
  | .indY _ => .indY

/-- The mode of a read operand. -/
def Source.mode : Source → Mode
  | .imm _ => .imm
  | .mem m => m.mode

/-- The mode of a shift's operand. -/
def Target.mode : Target → Mode
  | .acc   => .acc
  | .mem m => m.mode

/-- The addressing mode of an instruction: with the constructor it names one row of the opcode table. -/
def Instr.mode : Instr → Mode
  | .lda o | .ldx o | .ldy o | .adc o | .sbc o | .cmp o | .cpx o | .cpy o | .and o | .ora o | .eor o => o.mode
  | .sta m | .stx m | .sty m | .inc m | .dec m | .bit m => m.mode
  | .asl t | .lsr t | .rol t | .ror t => t.mode
  | .jmp _ | .jsr _ => .abs
  | .jmpInd _ => .ind
  | .bcc _ | .bcs _ | .beq _ | .bne _ | .bmi _ | .bpl _ | .bvc _ | .bvs _ => .rel
  | .tax | .tay | .txa | .tya | .tsx | .txs | .pha | .php | .pla | .plp | .inx | .iny | .dex | .dey
  | .rts | .brk | .rti | .clc | .sec | .cli | .sei | .cld | .sed | .clv | .nop => .impl
  | .jam _ => .invalid

end Sys2Proof
end

