-- ==== Sys2Proof/Machine/State.lean ====
section
/-! DEFINITION. The state of the block and of the memory it reaches, as plain data; the reasons a step can stop; and the
state right after Reset. -/

namespace Sys2Proof.Machine

/-- One call of a host callback (R5, R40, R41): `read` with its address, `write` with its address and byte. -/
inductive Access where
  | read  (a : Word)
  | write (a : Word) (v : Byte)
  deriving DecidableEq, Repr

/-- The register record of R20 with the host's memory (R8), and three fields of the model's own: the implementation
parameters (R9), the number of free values drawn so far (R147, R272), and the accesses of the last transition.
`p` holds all eight bits of P (R28). No transition reads `bus`, and none changes `cfg`. -/
structure State where
  /-- PC, the address of the next opcode (R25). -/
  pc : Word
  /-- A, the accumulator (R21). -/
  a : Byte
  /-- X, an index register (R22). -/
  x : Byte
  /-- Y, an index register (R23). -/
  y : Byte
  /-- S, the stack pointer: the low byte of an address in the stack page (R24). -/
  sp : Byte
  /-- P, the processor status (R26, R28). -/
  p : Byte
  /-- T, the cycle count of the last instruction, or the halt sentinel (R29). -/
  t : Byte
  /-- The 64 KiB memory, owned by the host (20_memory.md section 1). -/
  mem : Memory
  /-- The implementation parameters (R9), fixed for a machine. -/
  cfg : Config
  /-- The model's own: how many free values have been drawn (log entry 6). -/
  draws : Nat
  /-- The model's own: the callback calls of the last transition, oldest first (R5, R53; log entry 8). -/
  bus : List Access
  deriving DecidableEq, Repr

/-- The spec gives the block no fault: nothing an instruction does raises a trap (R243), no access is refused (R51), and
the invalid opcodes end in the jammed state, which is a state and not a fault (R231). So there is no constructor. -/
inductive Fault where
  deriving DecidableEq, Repr

/-- Why a meaning gives no next state. -/
inductive Refusal where
  /-- Raised by `exec` for an instruction that has no meaning yet; no arm of this model does. Safe. -/
  | notModelled (mnemonic : String)
  /-- Raised by a meaning for a term of `Instr` that the opcode table has no row for (`STA #`, `LDX zp,X`, a `jam` of a
  valid opcode). The decoder gives no such term, so no step raises it. Safe. -/
  | noEncoding
  deriving DecidableEq, Repr

/-- The state right after Reset (R270, R276). A, X, Y and S are the rule's; PC is `Read16($FFFC)` of a memory with
nothing listed; P is `P | 0x20` over flags that no rule gives a value (DESIGN CHOICE, log entry 4); T is 7, a draw that
R272 accepts (DESIGN CHOICE, log entry 5); the parameters have R9's defaults. -/
def State.reset : State where
  pc    := 0x0000
  a     := 0x00
  x     := 0x00
  y     := 0x00
  sp    := 0xFD
  p     := 0x20
  t     := 0x07
  mem   := []
  cfg   := {}
  draws := 0
  bus   := []

/-! ### One update per field -/

def State.setPc (s : State) (v : Word) : State := { s with pc := v }
def State.setA (s : State) (v : Byte) : State := { s with a := v }
def State.setX (s : State) (v : Byte) : State := { s with x := v }
def State.setY (s : State) (v : Byte) : State := { s with y := v }
def State.setSp (s : State) (v : Byte) : State := { s with sp := v }
def State.setP (s : State) (v : Byte) : State := { s with p := v }
def State.setT (s : State) (v : Byte) : State := { s with t := v }
def State.setMem (s : State) (m : Memory) : State := { s with mem := m }
def State.setDraws (s : State) (n : Nat) : State := { s with draws := n }
def State.setBus (s : State) (l : List Access) : State := { s with bus := l }

end Sys2Proof.Machine
end

