-- ==== Sys2Proof/Machine/Flags.lean ====
section
/-! DEFINITION. The status register's bits (R26) and every computation of a result with its flags: ADC and SBC in
binary and decimal mode, compare, shifts and rotates. Arithmetic is exact on Nat or Int and narrowed at the end (R30,
R140). -/

namespace Sys2Proof.Machine

/-! ### The bits of P -/

/-- The eight flags (R26). -/
inductive Flag where
  | C | Z | I | D | B | U | V | N
  deriving DecidableEq, Repr

/-- The bit position of a flag (R26). -/
def Flag.pos : Flag → Nat
  | .C => 0
  | .Z => 1
  | .I => 2
  | .D => 3
  | .B => 4
  | .U => 5
  | .V => 6
  | .N => 7

/-- The mask of a flag (R26). -/
def Flag.mask : Flag → Byte
  | .C => 0x01
  | .Z => 0x02
  | .I => 0x04
  | .D => 0x08
  | .B => 0x10
  | .U => 0x20
  | .V => 0x40
  | .N => 0x80

/-- A flag of a status byte. -/
def flagOf (p : Byte) (f : Flag) : Bool := p.getLsbD f.pos

/-- A status byte with one flag written and every other bit kept. -/
def withFlag (p : Byte) (f : Flag) (b : Bool) : Byte :=
  if b then p ||| f.mask else p &&& ~~~f.mask

/-- A flag of the register P. -/
def State.flag (s : State) (f : Flag) : Bool := flagOf s.p f

/-- Writes one flag of the register P. -/
def State.setFlag (s : State) (f : Flag) (b : Bool) : State := s.setP (withFlag s.p f b)

/-- Bit 7 of a byte, its sign. -/
def negative (v : Byte) : Bool := v.getLsbD 7

/-- Whether a byte is zero. -/
def isZero (v : Byte) : Bool := v == 0

/-- `SetNZ(v)` on a status byte (R30). -/
def withNZ (p : Byte) (v : Byte) : Byte := withFlag (withFlag p .N (negative v)) .Z (isZero v)

/-- `SetNZ(v)` (R30). -/
def State.setNZ (s : State) (v : Byte) : State := s.setP (withNZ s.p v)

/-! ### ADC and SBC -/

/-- A byte result with the four flags ADC and SBC write. -/
structure AluResult where
  value : Byte
  n : Bool
  v : Bool
  z : Bool
  c : Bool
  deriving DecidableEq, Repr

/-- The low nibble of a byte. -/
def lowNibble (v : Byte) : Nat := v.toNat % 16

/-- The high nibble of a byte. -/
def highNibble (v : Byte) : Nat := v.toNat / 16

/-- The signed-overflow test of R141: operands of equal sign, a result of the other sign. -/
def addOverflow (a m s : Byte) : Bool := negative ((a ^^^ s) &&& (m ^^^ s))

/-- The signed-overflow test of R144: operands of different sign, a result whose sign differs from A's. -/
def subOverflow (a m d : Byte) : Bool := negative ((a ^^^ m) &&& (a ^^^ d))

/-- The exact sum `A + M + Cin` (R141). -/
def addSum (a m : Byte) (cin : Bool) : Nat := a.toNat + m.toNat + cin.toNat

/-- The exact difference `A - M - (1 - Cin)` (R144). -/
def subDifference (a m : Byte) (cin : Bool) : Int := (a.toNat : Int) - m.toNat - (1 - (cin.toNat : Int))

/-- Binary ADC (R141). -/
def adcBinary (a m : Byte) (cin : Bool) : AluResult :=
  let r := BitVec.ofNat 8 (addSum a m cin)
  { value := r, n := negative r, v := addOverflow a m r, z := isZero r, c := decide (255 < addSum a m cin) }

/-- The low nibble of decimal ADC after its correction, carry included (R142). -/
def adcLow (a m : Byte) (cin : Bool) : Nat :=
  let lo := lowNibble a + lowNibble m + cin.toNat
  if 9 < lo then lo + 6 else lo

/-- The high nibble of decimal ADC after its correction, carry included (R142). -/
def adcHigh (a m : Byte) (cin : Bool) : Nat :=
  let hi := highNibble a + highNibble m + (if 15 < adcLow a m cin then 1 else 0)
  if 9 < hi then hi + 6 else hi

/-- The result of decimal ADC (R142). -/
def adcDecimalValue (a m : Byte) (cin : Bool) : Byte :=
  BitVec.ofNat 8 (adcHigh a m cin % 16 * 16 + adcLow a m cin % 16)

/-- The intermediate `a2` of R143's `nmos` flags: the sum before the high-nibble correction, as a signed number. -/
def adcNmosIntermediate (a m : Byte) (cin : Bool) : Int :=
  let al := lowNibble a + lowNibble m + cin.toNat
  let al := if 10 ≤ al then (al + 6) % 16 + 16 else al
  (a &&& 0xF0).toInt + (m &&& 0xF0).toInt + al

/-- Decimal ADC (R142 for A and C, R143 for N, V and Z). -/
def adcDecimal (flags : DecimalFlags) (a m : Byte) (cin : Bool) : AluResult :=
  let r := adcDecimalValue a m cin
  let s := BitVec.ofNat 8 (addSum a m cin)
  let c := decide (15 < adcHigh a m cin)
  match flags with
  | .doc  => { value := r, n := negative r, v := addOverflow a m s, z := isZero r, c := c }
  | .nmos =>
    let a2 := adcNmosIntermediate a m cin
    { value := r, n := negative (BitVec.ofInt 8 a2), v := decide (a2 < -128) || decide (127 < a2), z := isZero s, c := c }

/-- Binary SBC (R144). -/
def sbcBinary (a m : Byte) (cin : Bool) : AluResult :=
  let r := BitVec.ofInt 8 (subDifference a m cin)
  { value := r, n := negative r, v := subOverflow a m r, z := isZero r, c := decide (0 ≤ subDifference a m cin) }

/-- The low nibble of decimal SBC before its correction (R145). -/
def sbcLow (a m : Byte) (cin : Bool) : Int := (lowNibble a : Int) - lowNibble m - (1 - (cin.toNat : Int))

/-- The high nibble of decimal SBC with the low nibble's borrow, before its correction (R145). -/
def sbcHigh (a m : Byte) (cin : Bool) : Int :=
  (highNibble a : Int) - highNibble m - (if sbcLow a m cin < 0 then 1 else 0)

/-- A nibble of decimal SBC after its correction (R145). -/
def sbcCorrected (n : Int) : Int := if n < 0 then n - 6 else n

/-- The result of decimal SBC (R145). -/
def sbcDecimalValue (a m : Byte) (cin : Bool) : Byte :=
  BitVec.ofInt 8 (sbcCorrected (sbcHigh a m cin) % 16 * 16 + sbcCorrected (sbcLow a m cin) % 16)

/-- Decimal SBC with `SBC_ARG_BUG = fixed` (R145 for A and C, R146 for N, V and Z). -/
def sbcDecimal (flags : DecimalFlags) (a m : Byte) (cin : Bool) : AluResult :=
  let r := sbcDecimalValue a m cin
  let b := sbcBinary a m cin
  match flags with
  | .doc  => { b with value := r, n := negative r, z := isZero r }
  | .nmos => { b with value := r }

/-- Decimal SBC with `SBC_ARG_BUG = unconstrained` (R147): A and the flags N, V, Z and C are free values, the `k`-th
byte for A and the bits of the next one for the flags. -/
def sbcDrawn (k : Nat) : AluResult :=
  let f := Config.freeByte (k + 1)
  { value := Config.freeByte k, n := flagOf f .N, v := flagOf f .V, z := flagOf f .Z, c := flagOf f .C }

/-- Writes a status byte's N, V, Z and C from a result. -/
def withAluFlags (p : Byte) (r : AluResult) : Byte :=
  withFlag (withFlag (withFlag (withFlag p .N r.n) .V r.v) .Z r.z) .C r.c

/-- Writes A and the flags N, V, Z and C from a result. -/
def State.setAlu (s : State) (r : AluResult) : State := (s.setA r.value).setP (withAluFlags s.p r)

/-! ### Compare, shifts and rotates -/

/-- The status byte after a compare of a register with M: C is "no borrow", N and Z are those of the 8-bit difference
(R148 to R150). -/
def withCompare (p : Byte) (r m : Byte) : Byte :=
  withNZ (withFlag p .C (decide (m.toNat ≤ r.toNat))) (r - m)

/-- Writes the flags of a compare (R148 to R150). -/
def State.setCompare (s : State) (r m : Byte) : State := s.setP (withCompare s.p r m)

/-- A shifted byte and the bit that goes to C. -/
structure ShiftResult where
  value : Byte
  c : Bool
  deriving DecidableEq, Repr

/-- ASL (R174). -/
def shiftLeft (v : Byte) : ShiftResult := { value := BitVec.ofNat 8 (v.toNat * 2), c := v.getLsbD 7 }

/-- LSR (R175). -/
def shiftRight (v : Byte) : ShiftResult := { value := BitVec.ofNat 8 (v.toNat / 2), c := v.getLsbD 0 }

/-- ROL (R176): the old carry comes in at bit 0. -/
def rotateLeft (cin : Bool) (v : Byte) : ShiftResult :=
  { value := BitVec.ofNat 8 (v.toNat * 2) ||| BitVec.ofNat 8 cin.toNat, c := v.getLsbD 7 }

/-- ROR (R177): the old carry comes in at bit 7. -/
def rotateRight (cin : Bool) (v : Byte) : ShiftResult :=
  { value := BitVec.ofNat 8 (v.toNat / 2) ||| BitVec.ofNat 8 (cin.toNat * 128), c := v.getLsbD 0 }

/-- The status byte after a shift or rotate: C is the bit shifted out, N and Z are the result's (R174 to R177). -/
def withShift (p : Byte) (r : ShiftResult) : Byte := withNZ (withFlag p .C r.c) r.value

/-- Writes the flags of a shift or rotate (R174 to R177). -/
def State.setShift (s : State) (r : ShiftResult) : State := s.setP (withShift s.p r)

/-! ### BIT -/

/-- The status byte after BIT: Z from `A & M`, N and V from bits 7 and 6 of M itself (R173). -/
def withBitTest (p : Byte) (a m : Byte) : Byte :=
  withFlag (withFlag (withFlag p .Z (isZero (a &&& m))) .N (m.getLsbD 7)) .V (m.getLsbD 6)

/-- Writes the flags of BIT (R173). -/
def State.setBitTest (s : State) (m : Byte) : State := s.setP (withBitTest s.p s.a m)

/-! ### The copies of P on the stack -/

/-- The copy PHP and BRK push: B and U set (R127, R204). -/
def pushedByInstruction (p : Byte) : Byte := p ||| 0x30

/-- The copy IRQ and NMI push: B clear and U set (R244). -/
def pushedByInterrupt (p : Byte) : Byte := (p &&& ~~~0x10) ||| 0x20

/-- `pullP(v)`: how PLP and RTI load P (R129). -/
def pullP (c : PullP) (v : Byte) : Byte :=
  match c with
  | .verbatim   => v
  | .normalized => (v &&& ~~~0x10) ||| 0x20

end Sys2Proof.Machine
end

