-- ==== Sys2Proof/WellFormed.lean ====
section
/-! DEFINITION. Which terms of `Instr` are instructions of the hardware: the operand has a mode that the instruction's
rule lists, and a `jam` carries one of the 105 invalid opcodes. Every operand byte and every 16-bit operand is legal. -/

namespace Sys2Proof

/-- The 105 invalid opcodes, as rule R84 lists them. -/
def invalidOpcodes : List Byte :=
  [0x02, 0x03, 0x04, 0x07, 0x0B, 0x0C, 0x0F] ++
  [0x12, 0x13, 0x14, 0x17, 0x1A, 0x1B, 0x1C, 0x1F] ++
  [0x22, 0x23, 0x27, 0x2B, 0x2F] ++
  [0x32, 0x33, 0x34, 0x37, 0x3A, 0x3B, 0x3C, 0x3F] ++
  [0x42, 0x43, 0x44, 0x47, 0x4B, 0x4F] ++
  [0x52, 0x53, 0x54, 0x57, 0x5A, 0x5B, 0x5C, 0x5F] ++
  [0x62, 0x63, 0x64, 0x67, 0x6B, 0x6F] ++
  [0x72, 0x73, 0x74, 0x77, 0x7A, 0x7B, 0x7C, 0x7F] ++
  [0x80, 0x82, 0x83, 0x87, 0x89, 0x8B, 0x8F] ++
  [0x92, 0x93, 0x97, 0x9B, 0x9C, 0x9E, 0x9F] ++
  [0xA3, 0xA7, 0xAB, 0xAF] ++
  [0xB2, 0xB3, 0xB7, 0xBB, 0xBF] ++
  [0xC2, 0xC3, 0xC7, 0xCB, 0xCF] ++
  [0xD2, 0xD3, 0xD4, 0xD7, 0xDA, 0xDB, 0xDC, 0xDF] ++
  [0xE2, 0xE3, 0xE7, 0xEB, 0xEF] ++
  [0xF2, 0xF3, 0xF4, 0xF7, 0xFA, 0xFB, 0xFC, 0xFF]

/-- The modes of LDA, ADC, SBC, CMP, AND, ORA and EOR (R100, R141, R144, R148, R170 to R172). -/
def modesAlu : List Mode := [.imm, .zp, .zpX, .abs, .absX, .absY, .indX, .indY]

/-- The modes of LDX (R101). -/
def modesLdx : List Mode := [.imm, .zp, .zpY, .abs, .absY]

/-- The modes of LDY (R102). -/
def modesLdy : List Mode := [.imm, .zp, .zpX, .abs, .absX]

/-- The modes of STA (R103). -/
def modesSta : List Mode := [.zp, .zpX, .abs, .absX, .absY, .indX, .indY]

/-- The modes of STX (R104). -/
def modesStx : List Mode := [.zp, .zpY, .abs]

/-- The modes of STY (R105). -/
def modesSty : List Mode := [.zp, .zpX, .abs]

/-- The modes of CPX and CPY (R149, R150). -/
def modesCpx : List Mode := [.imm, .zp, .abs]

/-- The modes of BIT (R173). -/
def modesBit : List Mode := [.zp, .abs]

/-- The modes of INC and DEC (R151, R152). -/
def modesInc : List Mode := [.zp, .zpX, .abs, .absX]

/-- The modes of ASL, LSR, ROL and ROR (R174 to R177). -/
def modesShift : List Mode := [.acc, .zp, .zpX, .abs, .absX]

/-- The well-formed instructions: 151 forms of the documented set and 105 `jam` terms. -/
def Instr.wf : Instr → Bool
  | .lda o | .adc o | .sbc o | .cmp o | .and o | .ora o | .eor o => modesAlu.contains o.mode
  | .ldx o => modesLdx.contains o.mode
  | .ldy o => modesLdy.contains o.mode
  | .sta m => modesSta.contains m.mode
  | .stx m => modesStx.contains m.mode
  | .sty m => modesSty.contains m.mode
  | .cpx o | .cpy o => modesCpx.contains o.mode
  | .bit m => modesBit.contains m.mode
  | .inc m | .dec m => modesInc.contains m.mode
  | .asl t | .lsr t | .rol t | .ror t => modesShift.contains t.mode
  | .jam op => invalidOpcodes.contains op
  | .jmp _ | .jmpInd _ | .jsr _ | .bcc _ | .bcs _ | .beq _ | .bne _ | .bmi _ | .bpl _ | .bvc _ | .bvs _
  | .tax | .tay | .txa | .tya | .tsx | .txs | .pha | .php | .pla | .plp | .inx | .iny | .dex | .dey
  | .rts | .brk | .rti | .clc | .sec | .cli | .sei | .cld | .sed | .clv | .nop => true

end Sys2Proof
end

