-- ==== Sys2Proof/Decode.lean ====
section
/-! DEFINITION. Bytes to instructions and back: the opcode map of rule R83 as a table of 256 cells, `decode` over it
(total: the only rejection is a list too short for its opcode), the encoder written from R83's second table, and
the byte-order helpers both use. -/

namespace Sys2Proof

/-! ### Bytes and words -/

/-- The 16-bit value with high byte `hi` and low byte `lo`: `hi * 256 + lo` (00_scope.md section 5). -/
def joinBytes (hi lo : Byte) : Word := BitVec.ofNat 16 (hi.toNat * 256 + lo.toNat)

/-- Bits 7..0 of a word. -/
def loByte (w : Word) : Byte := BitVec.ofNat 8 w.toNat

/-- Bits 15..8 of a word. -/
def hiByte (w : Word) : Byte := BitVec.ofNat 8 (w.toNat / 256)

/-! ### Lengths -/

/-- The length of an instruction in bytes by its mode (R61); an invalid opcode is one byte (R231). -/
def Mode.length : Mode → Nat
  | .impl | .acc | .invalid => 1
  | .imm | .zp | .zpX | .zpY | .indX | .indY | .rel => 2
  | .abs | .absX | .absY | .ind => 3

/-- The length of an instruction in bytes. -/
def Instr.length (i : Instr) : Nat := i.mode.length

/-! ### The opcode map -/

namespace OpcodeMap

/-- A cell of the opcode map: what the opcode means, given the two bytes that follow it. A cell whose mode has
fewer operand bytes ignores the others. -/
abbrev Entry := Byte → Byte → Instr

/-- The operand of a zero-page mode, or of an absolute mode: little-endian, low byte first (R43, R61). -/
def zp   : Byte → Byte → Address := fun b1 _ => .zp b1
def zpX  : Byte → Byte → Address := fun b1 _ => .zpX b1
def zpY  : Byte → Byte → Address := fun b1 _ => .zpY b1
def abs  : Byte → Byte → Address := fun b1 b2 => .abs (joinBytes b2 b1)
def absX : Byte → Byte → Address := fun b1 b2 => .absX (joinBytes b2 b1)
def absY : Byte → Byte → Address := fun b1 b2 => .absY (joinBytes b2 b1)
def indX : Byte → Byte → Address := fun b1 _ => .indX b1
def indY : Byte → Byte → Address := fun b1 _ => .indY b1

/-- The cells' shapes: no operand byte, `#`, a read operand in memory, a shift's operand in memory, a memory operand,
a branch offset, a 16-bit address, and an invalid opcode. -/
def implied (i : Instr) : Entry := fun _ _ => i
def immediate (mk : Source → Instr) : Entry := fun b1 _ => mk (.imm b1)
def source (mk : Source → Instr) (am : Byte → Byte → Address) : Entry := fun b1 b2 => mk (.mem (am b1 b2))
def target (mk : Target → Instr) (am : Byte → Byte → Address) : Entry := fun b1 b2 => mk (.mem (am b1 b2))
def memory (mk : Address → Instr) (am : Byte → Byte → Address) : Entry := fun b1 b2 => mk (am b1 b2)
def relative (mk : Byte → Instr) : Entry := fun b1 _ => mk b1
def absolute (mk : Word → Instr) : Entry := fun b1 b2 => mk (joinBytes b2 b1)
def jam (op : Byte) : Entry := implied (.jam op)

/-- Opcodes `00`-`0F` (R83). -/
def opRow0 : List Entry := [
  implied .brk, source .ora indX, jam 0x02, jam 0x03,
  jam 0x04, source .ora zp, target .asl zp, jam 0x07,
  implied .php, immediate .ora, implied (.asl .acc), jam 0x0B,
  jam 0x0C, source .ora abs, target .asl abs, jam 0x0F]

/-- Opcodes `10`-`1F` (R83). -/
def opRow1 : List Entry := [
  relative .bpl, source .ora indY, jam 0x12, jam 0x13,
  jam 0x14, source .ora zpX, target .asl zpX, jam 0x17,
  implied .clc, source .ora absY, jam 0x1A, jam 0x1B,
  jam 0x1C, source .ora absX, target .asl absX, jam 0x1F]

/-- Opcodes `20`-`2F` (R83). -/
def opRow2 : List Entry := [
  absolute .jsr, source .and indX, jam 0x22, jam 0x23,
  memory .bit zp, source .and zp, target .rol zp, jam 0x27,
  implied .plp, immediate .and, implied (.rol .acc), jam 0x2B,
  memory .bit abs, source .and abs, target .rol abs, jam 0x2F]

/-- Opcodes `30`-`3F` (R83). -/
def opRow3 : List Entry := [
  relative .bmi, source .and indY, jam 0x32, jam 0x33,
  jam 0x34, source .and zpX, target .rol zpX, jam 0x37,
  implied .sec, source .and absY, jam 0x3A, jam 0x3B,
  jam 0x3C, source .and absX, target .rol absX, jam 0x3F]

/-- Opcodes `40`-`4F` (R83). -/
def opRow4 : List Entry := [
  implied .rti, source .eor indX, jam 0x42, jam 0x43,
  jam 0x44, source .eor zp, target .lsr zp, jam 0x47,
  implied .pha, immediate .eor, implied (.lsr .acc), jam 0x4B,
  absolute .jmp, source .eor abs, target .lsr abs, jam 0x4F]

/-- Opcodes `50`-`5F` (R83). -/
def opRow5 : List Entry := [
  relative .bvc, source .eor indY, jam 0x52, jam 0x53,
  jam 0x54, source .eor zpX, target .lsr zpX, jam 0x57,
  implied .cli, source .eor absY, jam 0x5A, jam 0x5B,
  jam 0x5C, source .eor absX, target .lsr absX, jam 0x5F]

/-- Opcodes `60`-`6F` (R83). -/
def opRow6 : List Entry := [
  implied .rts, source .adc indX, jam 0x62, jam 0x63,
  jam 0x64, source .adc zp, target .ror zp, jam 0x67,
  implied .pla, immediate .adc, implied (.ror .acc), jam 0x6B,
  absolute .jmpInd, source .adc abs, target .ror abs, jam 0x6F]

/-- Opcodes `70`-`7F` (R83). -/
def opRow7 : List Entry := [
  relative .bvs, source .adc indY, jam 0x72, jam 0x73,
  jam 0x74, source .adc zpX, target .ror zpX, jam 0x77,
  implied .sei, source .adc absY, jam 0x7A, jam 0x7B,
  jam 0x7C, source .adc absX, target .ror absX, jam 0x7F]

/-- Opcodes `80`-`8F` (R83). -/
def opRow8 : List Entry := [
  jam 0x80, memory .sta indX, jam 0x82, jam 0x83,
  memory .sty zp, memory .sta zp, memory .stx zp, jam 0x87,
  implied .dey, jam 0x89, implied .txa, jam 0x8B,
  memory .sty abs, memory .sta abs, memory .stx abs, jam 0x8F]

/-- Opcodes `90`-`9F` (R83). -/
def opRow9 : List Entry := [
  relative .bcc, memory .sta indY, jam 0x92, jam 0x93,
  memory .sty zpX, memory .sta zpX, memory .stx zpY, jam 0x97,
  implied .tya, memory .sta absY, implied .txs, jam 0x9B,
  jam 0x9C, memory .sta absX, jam 0x9E, jam 0x9F]

/-- Opcodes `A0`-`AF` (R83). -/
def opRowA : List Entry := [
  immediate .ldy, source .lda indX, immediate .ldx, jam 0xA3,
  source .ldy zp, source .lda zp, source .ldx zp, jam 0xA7,
  implied .tay, immediate .lda, implied .tax, jam 0xAB,
  source .ldy abs, source .lda abs, source .ldx abs, jam 0xAF]

/-- Opcodes `B0`-`BF` (R83). -/
def opRowB : List Entry := [
  relative .bcs, source .lda indY, jam 0xB2, jam 0xB3,
  source .ldy zpX, source .lda zpX, source .ldx zpY, jam 0xB7,
  implied .clv, source .lda absY, implied .tsx, jam 0xBB,
  source .ldy absX, source .lda absX, source .ldx absY, jam 0xBF]

/-- Opcodes `C0`-`CF` (R83). -/
def opRowC : List Entry := [
  immediate .cpy, source .cmp indX, jam 0xC2, jam 0xC3,
  source .cpy zp, source .cmp zp, memory .dec zp, jam 0xC7,
  implied .iny, immediate .cmp, implied .dex, jam 0xCB,
  source .cpy abs, source .cmp abs, memory .dec abs, jam 0xCF]

/-- Opcodes `D0`-`DF` (R83). -/
def opRowD : List Entry := [
  relative .bne, source .cmp indY, jam 0xD2, jam 0xD3,
  jam 0xD4, source .cmp zpX, memory .dec zpX, jam 0xD7,
  implied .cld, source .cmp absY, jam 0xDA, jam 0xDB,
  jam 0xDC, source .cmp absX, memory .dec absX, jam 0xDF]

/-- Opcodes `E0`-`EF` (R83). -/
def opRowE : List Entry := [
  immediate .cpx, source .sbc indX, jam 0xE2, jam 0xE3,
  source .cpx zp, source .sbc zp, memory .inc zp, jam 0xE7,
  implied .inx, immediate .sbc, implied .nop, jam 0xEB,
  source .cpx abs, source .sbc abs, memory .inc abs, jam 0xEF]

/-- Opcodes `F0`-`FF` (R83). -/
def opRowF : List Entry := [
  relative .beq, source .sbc indY, jam 0xF2, jam 0xF3,
  jam 0xF4, source .sbc zpX, memory .inc zpX, jam 0xF7,
  implied .sed, source .sbc absY, jam 0xFA, jam 0xFB,
  jam 0xFC, source .sbc absX, memory .inc absX, jam 0xFF]

end OpcodeMap

open OpcodeMap in
/-- The opcode map: 256 cells, in opcode order (R83). -/
def opMap : List Entry :=
  opRow0 ++ opRow1 ++ opRow2 ++ opRow3 ++ opRow4 ++ opRow5 ++ opRow6 ++ opRow7 ++
  opRow8 ++ opRow9 ++ opRowA ++ opRowB ++ opRowC ++ opRowD ++ opRowE ++ opRowF

/-- The instruction of opcode `op` with `b1` and `b2` after it (R80: the opcode alone selects the cell). -/
def decodeOp (op b1 b2 : Byte) : Instr :=
  (opMap.getD op.toNat (OpcodeMap.jam op)) b1 b2

/-- How many operand bytes follow the opcode: known from the opcode alone (R60, R85). -/
def operandCount (op : Byte) : Nat := (decodeOp op 0 0).length - 1

/-- Why a list of bytes is not an instruction: only that it ends too early. Every opcode decodes (R84). -/
inductive DecodeError where
  | empty
  | truncated (op : Byte)
  deriving DecidableEq, Repr

/-- Decodes the instruction at the head of a list of bytes and gives the bytes after it. -/
def decode : List Byte → Except DecodeError (Instr × List Byte)
  | [] => .error .empty
  | op :: rest =>
    match operandCount op, rest with
    | 0, rest => .ok (decodeOp op 0 0, rest)
    | 1, b1 :: rest => .ok (decodeOp op b1 0, rest)
    | 2, b1 :: b2 :: rest => .ok (decodeOp op b1 b2, rest)
    | _, _ => .error (.truncated op)

/-- The instruction that the opcode table's word `w` of `nbits` bits decodes to: bit 0 is the least significant bit of
the opcode byte, and the bits above `nbits` are 0. -/
def decodeTableWord (nbits w : Nat) : Option Instr :=
  let v := w % 2 ^ nbits
  match decode [BitVec.ofNat 8 v, BitVec.ofNat 8 (v / 256), BitVec.ofNat 8 (v / 65536)] with
  | .ok (i, _) => some i
  | .error _ => none

/-! ### The encoder -/

/-- A row of R83's second table: the opcode of each mode the instruction has. -/
structure OpcodeRow where
  imm  : Option Byte := none
  zp   : Option Byte := none
  zpX  : Option Byte := none
  zpY  : Option Byte := none
  abs  : Option Byte := none
  absX : Option Byte := none
  absY : Option Byte := none
  indX : Option Byte := none
  indY : Option Byte := none
  acc  : Option Byte := none

/-- The opcode in a row for a memory operand. -/
def OpcodeRow.address (r : OpcodeRow) : Address → Option Byte
  | .zp _   => r.zp
  | .zpX _  => r.zpX
  | .zpY _  => r.zpY
  | .abs _  => r.abs
  | .absX _ => r.absX
  | .absY _ => r.absY
  | .indX _ => r.indX
  | .indY _ => r.indY

/-- The opcode in a row for a read operand. -/
def OpcodeRow.source (r : OpcodeRow) : Source → Option Byte
  | .imm _ => r.imm
  | .mem m => r.address m

/-- The opcode in a row for a shift's operand. -/
def OpcodeRow.target (r : OpcodeRow) : Target → Option Byte
  | .acc   => r.acc
  | .mem m => r.address m

namespace OpcodeTable

def rowLDA : OpcodeRow := { imm := some 0xA9, zp := some 0xA5, zpX := some 0xB5, abs := some 0xAD, absX := some 0xBD, absY := some 0xB9, indX := some 0xA1, indY := some 0xB1 }
def rowLDX : OpcodeRow := { imm := some 0xA2, zp := some 0xA6, zpY := some 0xB6, abs := some 0xAE, absY := some 0xBE }
def rowLDY : OpcodeRow := { imm := some 0xA0, zp := some 0xA4, zpX := some 0xB4, abs := some 0xAC, absX := some 0xBC }
def rowSTA : OpcodeRow := { zp := some 0x85, zpX := some 0x95, abs := some 0x8D, absX := some 0x9D, absY := some 0x99, indX := some 0x81, indY := some 0x91 }
def rowSTX : OpcodeRow := { zp := some 0x86, zpY := some 0x96, abs := some 0x8E }
def rowSTY : OpcodeRow := { zp := some 0x84, zpX := some 0x94, abs := some 0x8C }
def rowADC : OpcodeRow := { imm := some 0x69, zp := some 0x65, zpX := some 0x75, abs := some 0x6D, absX := some 0x7D, absY := some 0x79, indX := some 0x61, indY := some 0x71 }
def rowSBC : OpcodeRow := { imm := some 0xE9, zp := some 0xE5, zpX := some 0xF5, abs := some 0xED, absX := some 0xFD, absY := some 0xF9, indX := some 0xE1, indY := some 0xF1 }
def rowCMP : OpcodeRow := { imm := some 0xC9, zp := some 0xC5, zpX := some 0xD5, abs := some 0xCD, absX := some 0xDD, absY := some 0xD9, indX := some 0xC1, indY := some 0xD1 }
def rowCPX : OpcodeRow := { imm := some 0xE0, zp := some 0xE4, abs := some 0xEC }
def rowCPY : OpcodeRow := { imm := some 0xC0, zp := some 0xC4, abs := some 0xCC }
def rowINC : OpcodeRow := { zp := some 0xE6, zpX := some 0xF6, abs := some 0xEE, absX := some 0xFE }
def rowDEC : OpcodeRow := { zp := some 0xC6, zpX := some 0xD6, abs := some 0xCE, absX := some 0xDE }
def rowAND : OpcodeRow := { imm := some 0x29, zp := some 0x25, zpX := some 0x35, abs := some 0x2D, absX := some 0x3D, absY := some 0x39, indX := some 0x21, indY := some 0x31 }
def rowORA : OpcodeRow := { imm := some 0x09, zp := some 0x05, zpX := some 0x15, abs := some 0x0D, absX := some 0x1D, absY := some 0x19, indX := some 0x01, indY := some 0x11 }
def rowEOR : OpcodeRow := { imm := some 0x49, zp := some 0x45, zpX := some 0x55, abs := some 0x4D, absX := some 0x5D, absY := some 0x59, indX := some 0x41, indY := some 0x51 }
def rowBIT : OpcodeRow := { zp := some 0x24, abs := some 0x2C }
def rowASL : OpcodeRow := { zp := some 0x06, zpX := some 0x16, abs := some 0x0E, absX := some 0x1E, acc := some 0x0A }
def rowLSR : OpcodeRow := { zp := some 0x46, zpX := some 0x56, abs := some 0x4E, absX := some 0x5E, acc := some 0x4A }
def rowROL : OpcodeRow := { zp := some 0x26, zpX := some 0x36, abs := some 0x2E, absX := some 0x3E, acc := some 0x2A }
def rowROR : OpcodeRow := { zp := some 0x66, zpX := some 0x76, abs := some 0x6E, absX := some 0x7E, acc := some 0x6A }

end OpcodeTable

open OpcodeTable in
/-- The opcode byte of an instruction by R83's second table; none where the table has no entry for the form. -/
def Instr.opcode : Instr → Option Byte
  | .lda o => rowLDA.source o
  | .ldx o => rowLDX.source o
  | .ldy o => rowLDY.source o
  | .sta m => rowSTA.address m
  | .stx m => rowSTX.address m
  | .sty m => rowSTY.address m
  | .tax => some 0xAA
  | .tay => some 0xA8
  | .txa => some 0x8A
  | .tya => some 0x98
  | .tsx => some 0xBA
  | .txs => some 0x9A
  | .pha => some 0x48
  | .php => some 0x08
  | .pla => some 0x68
  | .plp => some 0x28
  | .adc o => rowADC.source o
  | .sbc o => rowSBC.source o
  | .cmp o => rowCMP.source o
  | .cpx o => rowCPX.source o
  | .cpy o => rowCPY.source o
  | .inc m => rowINC.address m
  | .dec m => rowDEC.address m
  | .inx => some 0xE8
  | .iny => some 0xC8
  | .dex => some 0xCA
  | .dey => some 0x88
  | .and o => rowAND.source o
  | .ora o => rowORA.source o
  | .eor o => rowEOR.source o
  | .bit m => rowBIT.address m
  | .asl t => rowASL.target t
  | .lsr t => rowLSR.target t
  | .rol t => rowROL.target t
  | .ror t => rowROR.target t
  | .jmp _ => some 0x4C
  | .jmpInd _ => some 0x6C
  | .jsr _ => some 0x20
  | .rts => some 0x60
  | .bcc _ => some 0x90
  | .bcs _ => some 0xB0
  | .beq _ => some 0xF0
  | .bne _ => some 0xD0
  | .bmi _ => some 0x30
  | .bpl _ => some 0x10
  | .bvc _ => some 0x50
  | .bvs _ => some 0x70
  | .brk => some 0x00
  | .rti => some 0x40
  | .clc => some 0x18
  | .sec => some 0x38
  | .cli => some 0x58
  | .sei => some 0x78
  | .cld => some 0xD8
  | .sed => some 0xF8
  | .clv => some 0xB8
  | .nop => some 0xEA
  | .jam op => if invalidOpcodes.contains op then some op else none

/-- The operand bytes of a memory operand, low byte first (R43, R61). -/
def Address.bytes : Address → List Byte
  | .zp z | .zpX z | .zpY z | .indX z | .indY z => [z]
  | .abs a | .absX a | .absY a => [loByte a, hiByte a]

/-- The operand bytes of an instruction (R61). -/
def Instr.operandBytes : Instr → List Byte
  | .lda (.imm v) | .ldx (.imm v) | .ldy (.imm v) | .adc (.imm v) | .sbc (.imm v) | .cmp (.imm v) | .cpx (.imm v)
  | .cpy (.imm v) | .and (.imm v) | .ora (.imm v) | .eor (.imm v) => [v]
  | .lda (.mem m) | .ldx (.mem m) | .ldy (.mem m) | .adc (.mem m) | .sbc (.mem m) | .cmp (.mem m) | .cpx (.mem m)
  | .cpy (.mem m) | .and (.mem m) | .ora (.mem m) | .eor (.mem m) => m.bytes
  | .sta m | .stx m | .sty m | .inc m | .dec m | .bit m => m.bytes
  | .asl (.mem m) | .lsr (.mem m) | .rol (.mem m) | .ror (.mem m) => m.bytes
  | .asl .acc | .lsr .acc | .rol .acc | .ror .acc => []
  | .jmp a | .jmpInd a | .jsr a => [loByte a, hiByte a]
  | .bcc off | .bcs off | .beq off | .bne off | .bmi off | .bpl off | .bvc off | .bvs off => [off]
  | .tax | .tay | .txa | .tya | .tsx | .txs | .pha | .php | .pla | .plp | .inx | .iny | .dex | .dey
  | .rts | .brk | .rti | .clc | .sec | .cli | .sei | .cld | .sed | .clv | .nop | .jam _ => []

/-- The bytes of an instruction: its opcode and then its operand bytes; none for a term that is not well-formed. -/
def encode (i : Instr) : Option (List Byte) := i.opcode.map (· :: i.operandBytes)

end Sys2Proof
end

