-- ==== Sys2Proof/Machine/Timing.lean ====
section
/-! DEFINITION. The cycle counts: the timing byte of every opcode (R81, R83) and the formula that turns it into T (R82). -/

namespace Sys2Proof.Machine

/-- The timing bytes in opcode order, twice the base count plus the "maybe one more" bit (R81, R83's second table);
0 for the invalid opcodes, which have no count. -/
def timeBytes : List Nat :=
  [14, 12, 0, 0, 0, 6, 10, 0, 6, 4, 4, 0, 0, 8, 12, 0] ++
  [5, 11, 0, 0, 0, 8, 12, 0, 4, 9, 0, 0, 0, 9, 14, 0] ++
  [12, 12, 0, 0, 6, 6, 10, 0, 8, 4, 4, 0, 8, 8, 12, 0] ++
  [5, 11, 0, 0, 0, 8, 12, 0, 4, 9, 0, 0, 0, 9, 14, 0] ++
  [12, 12, 0, 0, 0, 6, 10, 0, 6, 4, 4, 0, 6, 8, 12, 0] ++
  [5, 11, 0, 0, 0, 8, 12, 0, 4, 9, 0, 0, 0, 9, 14, 0] ++
  [12, 12, 0, 0, 0, 6, 10, 0, 8, 4, 4, 0, 10, 8, 12, 0] ++
  [5, 11, 0, 0, 0, 8, 12, 0, 4, 9, 0, 0, 0, 9, 14, 0] ++
  [0, 12, 0, 0, 6, 6, 6, 0, 4, 0, 4, 0, 8, 8, 8, 0] ++
  [5, 12, 0, 0, 8, 8, 8, 0, 4, 10, 4, 0, 0, 10, 0, 0] ++
  [4, 12, 4, 0, 6, 6, 6, 0, 4, 4, 4, 0, 8, 8, 8, 0] ++
  [5, 11, 0, 0, 8, 8, 8, 0, 4, 9, 4, 0, 9, 9, 9, 0] ++
  [4, 12, 0, 0, 6, 6, 10, 0, 4, 4, 4, 0, 8, 8, 12, 0] ++
  [5, 11, 0, 0, 0, 8, 12, 0, 4, 9, 0, 0, 0, 9, 14, 0] ++
  [4, 12, 0, 0, 6, 6, 10, 0, 4, 4, 4, 0, 8, 8, 12, 0] ++
  [5, 11, 0, 0, 0, 8, 12, 0, 4, 9, 0, 0, 0, 9, 14, 0]

/-- `timeTable[op]` (R81). -/
def timeTable (op : Byte) : Nat := timeBytes.getD op.toNat 0

/-- `T` after an instruction that is no branch (R82): the base count, plus one on a page cross if the table allows it. -/
def cycles (op : Byte) (cross : Bool) : Byte :=
  BitVec.ofNat 8 (timeTable op / 2 + (if timeTable op % 2 = 1 ∧ cross = true then 1 else 0))

/-- `T` after a branch (R82): 2 not taken, 3 taken in the page, 4 taken across a page. -/
def branchCycles (taken cross : Bool) : Byte := if taken then (if cross then 4 else 3) else 2

/-- `T` after a taken IRQ or an NMI (R245). -/
def interruptCycles : Byte := 7

/-- The halt sentinel (R29, R232). -/
def haltSentinel : Byte := 0xFF

end Sys2Proof.Machine
end

