-- ==== Sys2Proof/Machine/Ops.lean ====
section
/-! DEFINITION. The operations every transition is made of: the two callbacks, 16-bit reads, the stack, the end of an
instruction, fetching an instruction, taking an interrupt or BRK, and returning from one. An operation that reads
memory gives the value and the state after the access. -/

namespace Sys2Proof.Machine

/-! ### Callbacks -/

/-- The byte memory holds at an address, with no callback call. -/
def State.peek (s : State) (a : Word) : Byte := s.mem.read a.toNat

/-- Notes a callback call. -/
def State.note (s : State) (c : Access) : State := s.setBus (s.bus ++ [c])

/-- `MemRead(addr, 1)` (R40). -/
def memRead (a : Word) (s : State) : Byte × State := (s.peek a, s.note (.read a))

/-- `MemWrite(addr, 1, v)` (R41). -/
def memWrite (a : Word) (v : Byte) (s : State) : State :=
  (s.setMem (s.mem.write a.toNat v)).note (.write a v)

/-- `Read16(addr)`: little-endian, low byte first, the second address modulo 2^16 (R43). -/
def read16 (a : Word) (s : State) : Word × State :=
  let lo := memRead a s
  let hi := memRead (a + 1) lo.2
  (joinBytes hi.1 lo.1, hi.2)

/-- The zero-page address of a byte. -/
def zeroPage (z : Byte) : Word := joinBytes 0x00 z

/-- `ReadZP16(p)`: both bytes come from the zero page (R44). -/
def readZP16 (p : Byte) (s : State) : Word × State :=
  let lo := memRead (zeroPage p) s
  let hi := memRead (zeroPage (p + 1)) lo.2
  (joinBytes hi.1 lo.1, hi.2)

/-! ### The stack -/

/-- The stack-page address of a value of S (R24). -/
def stackAddr (sp : Byte) : Word := joinBytes 0x01 sp

/-- `Push(v)` (R46). -/
def push (v : Byte) (s : State) : State := (memWrite (stackAddr s.sp) v s).setSp (s.sp - 1)

/-- `Pull()` (R47). -/
def pull (s : State) : Byte × State := memRead (stackAddr (s.sp + 1)) (s.setSp (s.sp + 1))

/-- Pushes an address, high byte first (R48). -/
def pushWord (w : Word) (s : State) : State := push (loByte w) (push (hiByte w) s)

/-- Pulls an address, low byte first (R48). -/
def pullWord (s : State) : Word × State :=
  let lo := pull s
  let hi := pull lo.2
  (joinBytes hi.1 lo.1, hi.2)

/-! ### Taking an interrupt or BRK, and returning -/

/-- The entry sequence of IRQ, NMI and BRK (R244, R204): the return address, then a copy of P, go on the stack, I is
set, and PC comes from the vector. B and D of the register stay (R28, R247). -/
def enter (vector : Word) (ret : Word) (pushed : Byte) (s : State) : State :=
  let s1 := push pushed (pushWord ret s)
  let v := read16 vector (s1.setFlag .I true)
  v.2.setPc v.1

/-- The vectors (R50). -/
def nmiVector : Word := 0xFFFA
def resetVector : Word := 0xFFFC
def irqVector : Word := 0xFFFE

/-- The return of RTI (R205, R250): P, then PC low and high, with no adjustment. -/
def returnFromInterrupt (s : State) : State :=
  let v := pull s
  let w := pullWord (v.2.setP (pullP s.cfg.pullP v.1))
  w.2.setPc w.1

/-! ### An instruction's frame -/

/-- Advances PC past the opcode and the operand bytes (R25, R70). -/
def advance (i : Instr) (s : State) : State := s.setPc (s.pc + BitVec.ofNat 16 i.length)

/-- Ends an instruction: T is the count of its opcode (R82). A term that has no row in the opcode table is refused. -/
def complete (i : Instr) (cross : Bool) (s : State) : Host.Outcome State Fault Refusal :=
  match i.opcode with
  | some op => .next (s.setT (cycles op cross))
  | none => .refused .noEncoding

/-! ### The jam -/

/-- Whether the block is jammed: `T = 0xFF` is the whole jammed state (R232). -/
def State.jammed (s : State) : Bool := s.t == haltSentinel

/-- `halt(JAM)` (R231): T is the sentinel, PC as `JAM_PC` says, and nothing else changes. -/
def halt (s : State) : State :=
  match s.cfg.jamPc with
  | .atOpcode    => s.setT haltSentinel
  | .afterOpcode => (s.setT haltSentinel).setPc (s.pc + 1)

/-! ### Fetch -/

/-- A fetched instruction and the state after its bytes were read. -/
structure Fetched where
  instr : Instr
  state : State

/-- The start of a transition: no access made yet. -/
def startTransition (s : State) : State := s.setBus []

/-- Reads the opcode at PC and then as many operand bytes as it needs, in address order (R53, R60, R80). PC stays at
the opcode; the meaning advances it. -/
def fetch (s : State) : Fetched :=
  let op := memRead s.pc s
  match operandCount op.1 with
  | 0 => ⟨decodeOp op.1 0 0, op.2⟩
  | 1 =>
    let b1 := memRead (s.pc + 1) op.2
    ⟨decodeOp op.1 b1.1 0, b1.2⟩
  | _ =>
    let b1 := memRead (s.pc + 1) op.2
    let b2 := memRead (s.pc + 2) b1.2
    ⟨decodeOp op.1 b1.1 b2.1, b2.2⟩

end Sys2Proof.Machine
end

