-- ==== Sys2Proof/Machine/Operands.lean ====
section
/-! DEFINITION. Operand resolution: the effective address and the page-cross flag of every mode (R70 to R73), and the
three ways an instruction uses an operand: it reads it, stores to it, or reads it and writes it back. -/

namespace Sys2Proof.Machine

/-- Whether two addresses lie in different pages (R72). -/
def crosses (base a : Word) : Bool := hiByte a != hiByte base

/-- What resolving a memory operand gives: the effective address, the page-cross flag, and the state after the
pointer reads. -/
structure Resolved where
  ea : Word
  cross : Bool
  state : State

/-- An indexed address: the index is unsigned and is added to a 16-bit base modulo 2^16 (R71). -/
def indexed (base : Word) (index : Byte) (s : State) : Resolved :=
  let ea := base + index.setWidth 16
  ⟨ea, crosses base ea, s⟩

/-- Resolves a memory operand (R70). -/
def resolve (m : Address) (s : State) : Resolved :=
  match m with
  | .zp z   => ⟨zeroPage z, false, s⟩
  | .zpX z  => ⟨zeroPage (z + s.x), false, s⟩
  | .zpY z  => ⟨zeroPage (z + s.y), false, s⟩
  | .abs a  => ⟨a, false, s⟩
  | .absX a => indexed a s.x s
  | .absY a => indexed a s.y s
  | .indX z =>
    let p := readZP16 (z + s.x) s
    ⟨p.1, false, p.2⟩
  | .indY z =>
    let p := readZP16 z s
    indexed p.1 s.y p.2

/-- What reading an operand gives. -/
structure Loaded where
  value : Byte
  cross : Bool
  state : State

/-- Reads a byte in memory through its operand. -/
def loadAddress (m : Address) (s : State) : Loaded :=
  let r := resolve m s
  let v := memRead r.ea r.state
  ⟨v.1, r.cross, v.2⟩

/-- Reads an operand; an immediate one was read with the instruction (R70, `#`). -/
def loadSource (o : Source) (s : State) : Loaded :=
  match o with
  | .imm v => ⟨v, false, s⟩
  | .mem m => loadAddress m s

/-- What storing to an operand gives. -/
structure Stored where
  cross : Bool
  state : State

/-- Stores a byte to a memory operand, with no read of its address (R103). -/
def storeAddress (m : Address) (v : Byte) (s : State) : Stored :=
  let r := resolve m s
  ⟨r.cross, memWrite r.ea v r.state⟩

/-- What a read-modify-write gives: the byte read and the state after the write. -/
structure Modified where
  old : Byte
  cross : Bool
  state : State

/-- One read and one write of a memory operand (R53). -/
def modifyAddress (m : Address) (f : Byte → Byte) (s : State) : Modified :=
  let r := resolve m s
  let v := memRead r.ea r.state
  ⟨v.1, r.cross, memWrite r.ea (f v.1) v.2⟩

/-- Reads and writes a shift's operand: A, or one read and one write of memory (R174 to R177). -/
def modifyTarget (t : Target) (f : Byte → Byte) (s : State) : Modified :=
  match t with
  | .acc   => ⟨s.a, false, s.setA (f s.a)⟩
  | .mem m => modifyAddress m f s

/-- A relative target: the signed offset is added to the address of the next instruction, modulo 2^16 (R70, R73). -/
def branchTarget (off : Byte) (next : Word) : Word := next + off.signExtend 16

end Sys2Proof.Machine
end

