-- ==== Sys2Proof/Machine/Arith.lean ====
section
/-! DEFINITION. Arithmetic, compare, increment and decrement: ADC, SBC, CMP, CPX, CPY, INC, DEC, INX, INY, DEX, DEY
(42_arithmetic.md). -/

namespace Sys2Proof.Machine

/-- ADC: binary or decimal by the D flag (R141 to R143). -/
def execAdc (o : Source) (s : State) : Host.Outcome State Fault Refusal :=
  let r := loadSource o (advance (.adc o) s)
  let cin := s.flag .C
  let result := if s.flag .D then adcDecimal s.cfg.decimalFlags s.a r.value cin else adcBinary s.a r.value cin
  complete (.adc o) r.cross (r.state.setAlu result)

/-- The result of SBC: binary or decimal by the D flag; decimal is a rule or a draw by `SBC_ARG_BUG` (R144 to R147). -/
def sbcResult (m : Byte) (s : State) : AluResult :=
  if s.flag .D then
    match s.cfg.sbcArgBug with
    | .fixed => sbcDecimal s.cfg.decimalFlags s.a m (s.flag .C)
    | .unconstrained => sbcDrawn s.draws
  else sbcBinary s.a m (s.flag .C)

/-- How many free values an SBC draws: two for a decimal SBC with `SBC_ARG_BUG = unconstrained` (R147). -/
def sbcDraws (s : State) : Nat :=
  if s.flag .D then
    match s.cfg.sbcArgBug with
    | .fixed => 0
    | .unconstrained => 2
  else 0

/-- SBC (R144 to R147). -/
def execSbc (o : Source) (s : State) : Host.Outcome State Fault Refusal :=
  let r := loadSource o (advance (.sbc o) s)
  complete (.sbc o) r.cross ((r.state.setAlu (sbcResult r.value s)).setDraws (s.draws + sbcDraws s))

/-- CMP: A is compared and not written (R148). -/
def execCmp (o : Source) (s : State) : Host.Outcome State Fault Refusal :=
  let r := loadSource o (advance (.cmp o) s)
  complete (.cmp o) r.cross (r.state.setCompare s.a r.value)

/-- CPX: X is compared and not written (R149). -/
def execCpx (o : Source) (s : State) : Host.Outcome State Fault Refusal :=
  let r := loadSource o (advance (.cpx o) s)
  complete (.cpx o) r.cross (r.state.setCompare s.x r.value)

/-- CPY: Y is compared and not written (R150). -/
def execCpy (o : Source) (s : State) : Host.Outcome State Fault Refusal :=
  let r := loadSource o (advance (.cpy o) s)
  complete (.cpy o) r.cross (r.state.setCompare s.y r.value)

/-- INC: one read and one write of memory, binary whatever D is (R151). -/
def execInc (m : Address) (s : State) : Host.Outcome State Fault Refusal :=
  let r := modifyAddress m (· + 1) (advance (.inc m) s)
  complete (.inc m) r.cross (r.state.setNZ (r.old + 1))

/-- DEC: one read and one write of memory, binary whatever D is (R152). -/
def execDec (m : Address) (s : State) : Host.Outcome State Fault Refusal :=
  let r := modifyAddress m (· - 1) (advance (.dec m) s)
  complete (.dec m) r.cross (r.state.setNZ (r.old - 1))

/-- INX (R153). -/
def execInx (s : State) : Host.Outcome State Fault Refusal :=
  complete .inx false (((advance .inx s).setX (s.x + 1)).setNZ (s.x + 1))

/-- INY (R154). -/
def execIny (s : State) : Host.Outcome State Fault Refusal :=
  complete .iny false (((advance .iny s).setY (s.y + 1)).setNZ (s.y + 1))

/-- DEX (R155). -/
def execDex (s : State) : Host.Outcome State Fault Refusal :=
  complete .dex false (((advance .dex s).setX (s.x - 1)).setNZ (s.x - 1))

/-- DEY (R156). -/
def execDey (s : State) : Host.Outcome State Fault Refusal :=
  complete .dey false (((advance .dey s).setY (s.y - 1)).setNZ (s.y - 1))

end Sys2Proof.Machine
end

