-- ==== Sys2Proof/Machine/Control.lean ====
section
/-! DEFINITION. Jumps, subroutines, branches, BRK and RTI (44_control.md). A state given to a meaning has PC at the opcode. -/

namespace Sys2Proof.Machine

/-- JMP absolute (R190). -/
def execJmp (a : Word) (s : State) : Host.Outcome State Fault Refusal :=
  complete (.jmp a) false (s.setPc a)

/-- The address JMP indirect reads the high byte from (R191). -/
def indirectHigh (w : JmpIndWrap) (ptr : Word) : Word :=
  match w with
  | .nmos   => joinBytes (hiByte ptr) (loByte ptr + 1)
  | .linear => ptr + 1

/-- JMP indirect (R191). -/
def execJmpInd (ptr : Word) (s : State) : Host.Outcome State Fault Refusal :=
  let lo := memRead ptr s
  let hi := memRead (indirectHigh s.cfg.jmpIndWrap ptr) lo.2
  complete (.jmpInd ptr) false (hi.2.setPc (joinBytes hi.1 lo.1))

/-- JSR: pushes the address of its own last byte (R192). -/
def execJsr (a : Word) (s : State) : Host.Outcome State Fault Refusal :=
  complete (.jsr a) false ((pushWord (s.pc + 2) s).setPc a)

/-- RTS: returns to one past the pulled address (R193). -/
def execRts (s : State) : Host.Outcome State Fault Refusal :=
  let w := pullWord s
  complete .rts false (w.2.setPc (w.1 + 1))

/-- The form of every conditional branch (R194). -/
def branch (i : Instr) (off : Byte) (taken : Bool) (s : State) : Host.Outcome State Fault Refusal :=
  let next := advance i s
  let target := branchTarget off next.pc
  match i.opcode with
  | some _ =>
    .next ((if taken then next.setPc target else next).setT (branchCycles taken (crosses next.pc target)))
  | none => .refused .noEncoding

/-- BCC: taken when C is 0 (R195). -/
def execBcc (off : Byte) (s : State) : Host.Outcome State Fault Refusal :=
  branch (.bcc off) off (!s.flag .C) s

/-- BCS: taken when C is 1 (R196). -/
def execBcs (off : Byte) (s : State) : Host.Outcome State Fault Refusal :=
  branch (.bcs off) off (s.flag .C) s

/-- BEQ: taken when Z is 1 (R197). -/
def execBeq (off : Byte) (s : State) : Host.Outcome State Fault Refusal :=
  branch (.beq off) off (s.flag .Z) s

/-- BNE: taken when Z is 0 (R198). -/
def execBne (off : Byte) (s : State) : Host.Outcome State Fault Refusal :=
  branch (.bne off) off (!s.flag .Z) s

/-- BMI: taken when N is 1 (R199). -/
def execBmi (off : Byte) (s : State) : Host.Outcome State Fault Refusal :=
  branch (.bmi off) off (s.flag .N) s

/-- BPL: taken when N is 0 (R200). -/
def execBpl (off : Byte) (s : State) : Host.Outcome State Fault Refusal :=
  branch (.bpl off) off (!s.flag .N) s

/-- BVC: taken when V is 0 (R201). -/
def execBvc (off : Byte) (s : State) : Host.Outcome State Fault Refusal :=
  branch (.bvc off) off (!s.flag .V) s

/-- BVS: taken when V is 1 (R202). -/
def execBvs (off : Byte) (s : State) : Host.Outcome State Fault Refusal :=
  branch (.bvs off) off (s.flag .V) s

/-- BRK: the entry sequence with the return address `pc0 + 2` and B set in the pushed copy (R204). -/
def execBrk (s : State) : Host.Outcome State Fault Refusal :=
  complete .brk false (enter irqVector (s.pc + 2) (pushedByInstruction s.p) s)

/-- RTI (R205). -/
def execRti (s : State) : Host.Outcome State Fault Refusal :=
  complete .rti false (returnFromInterrupt s)

end Sys2Proof.Machine
end

