-- ==== Sys2Proof/Machine/FlagOps.lean ====
section
/-! DEFINITION. Flag instructions and NOP: CLC, SEC, CLI, SEI, CLD, SED, CLV, NOP (45_flags_nop.md). -/

namespace Sys2Proof.Machine

/-- CLC (R220). -/
def execClc (s : State) : Host.Outcome State Fault Refusal :=
  complete .clc false ((advance .clc s).setFlag .C false)

/-- SEC (R221). -/
def execSec (s : State) : Host.Outcome State Fault Refusal :=
  complete .sec false ((advance .sec s).setFlag .C true)

/-- CLI (R222). -/
def execCli (s : State) : Host.Outcome State Fault Refusal :=
  complete .cli false ((advance .cli s).setFlag .I false)

/-- SEI (R223). -/
def execSei (s : State) : Host.Outcome State Fault Refusal :=
  complete .sei false ((advance .sei s).setFlag .I true)

/-- CLD (R224). -/
def execCld (s : State) : Host.Outcome State Fault Refusal :=
  complete .cld false ((advance .cld s).setFlag .D false)

/-- SED (R225). -/
def execSed (s : State) : Host.Outcome State Fault Refusal :=
  complete .sed false ((advance .sed s).setFlag .D true)

/-- CLV (R226). -/
def execClv (s : State) : Host.Outcome State Fault Refusal :=
  complete .clv false ((advance .clv s).setFlag .V false)

/-- NOP: PC advances and nothing else (R227). -/
def execNop (s : State) : Host.Outcome State Fault Refusal :=
  complete .nop false (advance .nop s)

end Sys2Proof.Machine
end

