-- ==== Sys2Proof/Machine/Invalid.lean ====
section
/-! DEFINITION. The invalid opcodes (46_invalid.md). -/

namespace Sys2Proof.Machine

/-- JAM: every invalid opcode halts the block (R230, R231). A `jam` of a valid opcode is no instruction. -/
def execJam (op : Byte) (s : State) : Host.Outcome State Fault Refusal :=
  match (Instr.jam op).opcode with
  | some _ => .next (halt s)
  | none => .refused .noEncoding

end Sys2Proof.Machine
end

