-- ==== Sys2Proof/Machine/LoadStore.lean ====
section
/-! DEFINITION. Loads and stores: LDA, LDX, LDY, STA, STX, STY (40_load_store.md). -/

namespace Sys2Proof.Machine

/-- LDA: load A and set N and Z (R100). -/
def execLda (o : Source) (s : State) : Host.Outcome State Fault Refusal :=
  let r := loadSource o (advance (.lda o) s)
  complete (.lda o) r.cross ((r.state.setA r.value).setNZ r.value)

/-- LDX: load X and set N and Z (R101). -/
def execLdx (o : Source) (s : State) : Host.Outcome State Fault Refusal :=
  let r := loadSource o (advance (.ldx o) s)
  complete (.ldx o) r.cross ((r.state.setX r.value).setNZ r.value)

/-- LDY: load Y and set N and Z (R102). -/
def execLdy (o : Source) (s : State) : Host.Outcome State Fault Refusal :=
  let r := loadSource o (advance (.ldy o) s)
  complete (.ldy o) r.cross ((r.state.setY r.value).setNZ r.value)

/-- STA: store A; no flag changes (R103). -/
def execSta (m : Address) (s : State) : Host.Outcome State Fault Refusal :=
  let r := storeAddress m s.a (advance (.sta m) s)
  complete (.sta m) r.cross r.state

/-- STX: store X; no flag changes (R104). -/
def execStx (m : Address) (s : State) : Host.Outcome State Fault Refusal :=
  let r := storeAddress m s.x (advance (.stx m) s)
  complete (.stx m) r.cross r.state

/-- STY: store Y; no flag changes (R105). -/
def execSty (m : Address) (s : State) : Host.Outcome State Fault Refusal :=
  let r := storeAddress m s.y (advance (.sty m) s)
  complete (.sty m) r.cross r.state

end Sys2Proof.Machine
end

