-- ==== Sys2Proof/Machine/Logic.lean ====
section
/-! DEFINITION. Logic, bit test, shifts and rotates: AND, ORA, EOR, BIT, ASL, LSR, ROL, ROR (43_logic_shift.md). -/

namespace Sys2Proof.Machine

/-- AND (R170). -/
def execAnd (o : Source) (s : State) : Host.Outcome State Fault Refusal :=
  let r := loadSource o (advance (.and o) s)
  complete (.and o) r.cross ((r.state.setA (s.a &&& r.value)).setNZ (s.a &&& r.value))

/-- ORA (R171). -/
def execOra (o : Source) (s : State) : Host.Outcome State Fault Refusal :=
  let r := loadSource o (advance (.ora o) s)
  complete (.ora o) r.cross ((r.state.setA (s.a ||| r.value)).setNZ (s.a ||| r.value))

/-- EOR (R172). -/
def execEor (o : Source) (s : State) : Host.Outcome State Fault Refusal :=
  let r := loadSource o (advance (.eor o) s)
  complete (.eor o) r.cross ((r.state.setA (s.a ^^^ r.value)).setNZ (s.a ^^^ r.value))

/-- BIT: A is not written (R173). -/
def execBit (m : Address) (s : State) : Host.Outcome State Fault Refusal :=
  let r := loadAddress m (advance (.bit m) s)
  complete (.bit m) r.cross (r.state.setBitTest r.value)

/-- ASL, on A or on memory (R174). -/
def execAsl (t : Target) (s : State) : Host.Outcome State Fault Refusal :=
  let r := modifyTarget t (fun v => (shiftLeft v).value) (advance (.asl t) s)
  complete (.asl t) r.cross (r.state.setShift (shiftLeft r.old))

/-- LSR, on A or on memory (R175). -/
def execLsr (t : Target) (s : State) : Host.Outcome State Fault Refusal :=
  let r := modifyTarget t (fun v => (shiftRight v).value) (advance (.lsr t) s)
  complete (.lsr t) r.cross (r.state.setShift (shiftRight r.old))

/-- ROL, on A or on memory (R176). -/
def execRol (t : Target) (s : State) : Host.Outcome State Fault Refusal :=
  let r := modifyTarget t (fun v => (rotateLeft (s.flag .C) v).value) (advance (.rol t) s)
  complete (.rol t) r.cross (r.state.setShift (rotateLeft (s.flag .C) r.old))

/-- ROR, on A or on memory (R177). -/
def execRor (t : Target) (s : State) : Host.Outcome State Fault Refusal :=
  let r := modifyTarget t (fun v => (rotateRight (s.flag .C) v).value) (advance (.ror t) s)
  complete (.ror t) r.cross (r.state.setShift (rotateRight (s.flag .C) r.old))

end Sys2Proof.Machine
end

