-- ==== Sys2Proof/Machine/Transfer.lean ====
section
/-! DEFINITION. Register transfers and stack instructions: TAX, TAY, TXA, TYA, TSX, TXS, PHA, PHP, PLA, PLP
(41_transfer_stack.md). -/

namespace Sys2Proof.Machine

/-- TAX (R120). -/
def execTax (s : State) : Host.Outcome State Fault Refusal :=
  complete .tax false (((advance .tax s).setX s.a).setNZ s.a)

/-- TAY (R121). -/
def execTay (s : State) : Host.Outcome State Fault Refusal :=
  complete .tay false (((advance .tay s).setY s.a).setNZ s.a)

/-- TXA (R122). -/
def execTxa (s : State) : Host.Outcome State Fault Refusal :=
  complete .txa false (((advance .txa s).setA s.x).setNZ s.x)

/-- TYA (R123). -/
def execTya (s : State) : Host.Outcome State Fault Refusal :=
  complete .tya false (((advance .tya s).setA s.y).setNZ s.y)

/-- TSX (R124). -/
def execTsx (s : State) : Host.Outcome State Fault Refusal :=
  complete .tsx false (((advance .tsx s).setX s.sp).setNZ s.sp)

/-- TXS: the one transfer that leaves N and Z (R125). -/
def execTxs (s : State) : Host.Outcome State Fault Refusal :=
  complete .txs false ((advance .txs s).setSp s.x)

/-- PHA (R126). -/
def execPha (s : State) : Host.Outcome State Fault Refusal :=
  complete .pha false (push s.a (advance .pha s))

/-- PHP: the pushed copy has B and U set; the register keeps its bits (R127). -/
def execPhp (s : State) : Host.Outcome State Fault Refusal :=
  complete .php false (push (pushedByInstruction s.p) (advance .php s))

/-- PLA (R128). -/
def execPla (s : State) : Host.Outcome State Fault Refusal :=
  let v := pull (advance .pla s)
  complete .pla false ((v.2.setA v.1).setNZ v.1)

/-- PLP (R129). -/
def execPlp (s : State) : Host.Outcome State Fault Refusal :=
  let v := pull (advance .plp s)
  complete .plp false (v.2.setP (pullP s.cfg.pullP v.1))

end Sys2Proof.Machine
end

