-- ==== Sys2Proof/Machine/Dispatch.lean ====
section
/-! DEFINITION. `exec`: one arm per instruction, each one call of its meaning. PC of the state given is at the opcode. -/

namespace Sys2Proof.Machine

def exec (i : Instr) (s : State) : Host.Outcome State Fault Refusal :=
  match i with
  | .lda o => Sys2Proof.Machine.execLda o s
  | .ldx o => Sys2Proof.Machine.execLdx o s
  | .ldy o => Sys2Proof.Machine.execLdy o s
  | .sta m => Sys2Proof.Machine.execSta m s
  | .stx m => Sys2Proof.Machine.execStx m s
  | .sty m => Sys2Proof.Machine.execSty m s
  | .tax => Sys2Proof.Machine.execTax s
  | .tay => Sys2Proof.Machine.execTay s
  | .txa => Sys2Proof.Machine.execTxa s
  | .tya => Sys2Proof.Machine.execTya s
  | .tsx => Sys2Proof.Machine.execTsx s
  | .txs => Sys2Proof.Machine.execTxs s
  | .pha => Sys2Proof.Machine.execPha s
  | .php => Sys2Proof.Machine.execPhp s
  | .pla => Sys2Proof.Machine.execPla s
  | .plp => Sys2Proof.Machine.execPlp s
  | .adc o => Sys2Proof.Machine.execAdc o s
  | .sbc o => Sys2Proof.Machine.execSbc o s
  | .cmp o => Sys2Proof.Machine.execCmp o s
  | .cpx o => Sys2Proof.Machine.execCpx o s
  | .cpy o => Sys2Proof.Machine.execCpy o s
  | .inc m => Sys2Proof.Machine.execInc m s
  | .dec m => Sys2Proof.Machine.execDec m s
  | .inx => Sys2Proof.Machine.execInx s
  | .iny => Sys2Proof.Machine.execIny s
  | .dex => Sys2Proof.Machine.execDex s
  | .dey => Sys2Proof.Machine.execDey s
  | .and o => Sys2Proof.Machine.execAnd o s
  | .ora o => Sys2Proof.Machine.execOra o s
  | .eor o => Sys2Proof.Machine.execEor o s
  | .bit m => Sys2Proof.Machine.execBit m s
  | .asl t => Sys2Proof.Machine.execAsl t s
  | .lsr t => Sys2Proof.Machine.execLsr t s
  | .rol t => Sys2Proof.Machine.execRol t s
  | .ror t => Sys2Proof.Machine.execRor t s
  | .jmp a => Sys2Proof.Machine.execJmp a s
  | .jmpInd ptr => Sys2Proof.Machine.execJmpInd ptr s
  | .jsr a => Sys2Proof.Machine.execJsr a s
  | .rts => Sys2Proof.Machine.execRts s
  | .bcc off => Sys2Proof.Machine.execBcc off s
  | .bcs off => Sys2Proof.Machine.execBcs off s
  | .beq off => Sys2Proof.Machine.execBeq off s
  | .bne off => Sys2Proof.Machine.execBne off s
  | .bmi off => Sys2Proof.Machine.execBmi off s
  | .bpl off => Sys2Proof.Machine.execBpl off s
  | .bvc off => Sys2Proof.Machine.execBvc off s
  | .bvs off => Sys2Proof.Machine.execBvs off s
  | .brk => Sys2Proof.Machine.execBrk s
  | .rti => Sys2Proof.Machine.execRti s
  | .clc => Sys2Proof.Machine.execClc s
  | .sec => Sys2Proof.Machine.execSec s
  | .cli => Sys2Proof.Machine.execCli s
  | .sei => Sys2Proof.Machine.execSei s
  | .cld => Sys2Proof.Machine.execCld s
  | .sed => Sys2Proof.Machine.execSed s
  | .clv => Sys2Proof.Machine.execClv s
  | .nop => Sys2Proof.Machine.execNop s
  | .jam op => Sys2Proof.Machine.execJam op s

end Sys2Proof.Machine
end

