-- ==== Sys2Proof/Machine/Transitions.lean ====
section
/-! DEFINITION. The transitions the host invokes beside Step, IRQ, NMI and Reset (60_exceptions.md, 70_reset_and_hazards.md),
and what the host may do to the block between transitions (R34, R57, R248). -/

namespace Sys2Proof.Machine

/-- The IRQ transition: skipped when the block is jammed or I is set, with no record kept (R241, R245, R249). -/
def irq (s : State) : State :=
  let s0 := startTransition s
  if s.jammed then s0
  else if s.flag .I then s0
  else (enter irqVector s.pc (pushedByInterrupt s.p) s0).setT interruptCycles

/-- The NMI transition: not masked by I (R242, R245). -/
def nmi (s : State) : State :=
  let s0 := startTransition s
  if s.jammed then s0
  else (enter nmiVector s.pc (pushedByInterrupt s.p) s0).setT interruptCycles

/-- P after Reset (R270). -/
def resetStatus (c : ResetP) (p : Byte) : Byte :=
  match c with
  | .doc  => p ||| 0x20
  | .nmos => p ||| 0x24

/-- The Reset transition with a given count in T (R270). -/
def resetTo (count : Fin 255) (s : State) : State :=
  let s1 := ((((startTransition s).setA 0x00).setX 0x00).setY 0x00).setSp 0xFD
  let v := read16 resetVector (s1.setP (resetStatus s.cfg.resetP s.p))
  (v.2.setPc v.1).setT (BitVec.ofNat 8 count.val)

/-- The Reset transition: T is a draw in `0x00`-`0xFE` (R270, R272). It is taken in any state (R271). -/
def resetBlock (s : State) : State :=
  (resetTo (Config.freeResetCount s.draws) s).setDraws (s.draws + 1)

/-- The requests a host may have pending at one instruction boundary (R248). -/
structure Requests where
  reset : Bool := false
  nmi   : Bool := false
  irq   : Bool := false
  deriving DecidableEq, Repr

/-- The order in which the host injects several pending requests: Reset, then NMI, then IRQ (R248). -/
def inject (r : Requests) (s : State) : State :=
  let s := if r.reset then resetBlock s else s
  let s := if r.nmi then nmi s else s
  if r.irq then irq s else s

/-- The register record (R20). -/
structure Registers where
  pc : Word
  a  : Byte
  x  : Byte
  y  : Byte
  sp : Byte
  p  : Byte
  t  : Byte
  deriving DecidableEq, Repr

/-- The register record of a state. -/
def State.registers (s : State) : Registers := ⟨s.pc, s.a, s.x, s.y, s.sp, s.p, s.t⟩

/-- Equality of register records: T is not compared (R31). -/
def Registers.same (r q : Registers) : Bool :=
  r.pc == q.pc && r.a == q.a && r.x == q.x && r.y == q.y && r.p == q.p && r.sp == q.sp

/-- The host replaces the register record between transitions, T included (R34). -/
def hostSetRegisters (r : Registers) (s : State) : State :=
  ((((((s.setPc r.pc).setA r.a).setX r.x).setY r.y).setSp r.sp).setP r.p).setT r.t

/-- The host changes a byte of memory between transitions (R57). -/
def hostStore (a : Word) (v : Byte) (s : State) : State := s.setMem (s.mem.write a.toNat v)

end Sys2Proof.Machine
end

