-- ==== Sys2Proof/Machine/Step.lean ====
section
/-! DEFINITION. `step` is the Step transition (R80); `transition` is the block's whole interface, its four transitions
(R4); `withFetchWord` places an instruction where the next step fetches. -/

namespace Sys2Proof.Machine

/-- One Step (R80): nothing on a jammed block (R232), else fetch at PC and the meaning of what was fetched. -/
def step (s : State) : Host.Outcome State Fault Refusal :=
  if s.jammed then .next (startTransition s)
  else exec (fetch (startTransition s)).instr (fetch (startTransition s)).state

/-- The four transitions the host may invoke (R4). -/
inductive Transition where
  | step
  | irq
  | nmi
  | reset
  deriving DecidableEq, Repr

/-- The block's interface: one transition at a time (R4, R6). -/
def transition (k : Transition) (s : State) : Host.Outcome State Fault Refusal :=
  match k with
  | .step  => step s
  | .irq   => .next (irq s)
  | .nmi   => .next (nmi s)
  | .reset => .next (resetBlock s)

/-- The state with the instruction word `w` of `nbits` bits stored at PC, the bits above `nbits` zero up to three bytes,
as a host may store it (R57). A jammed block is also given `T = 0`, which R34 asks of a host that resumes one. -/
def State.withFetchWord (s : State) (nbits w : Nat) : State :=
  let v := w % 2 ^ nbits
  let s1 := hostStore s.pc (BitVec.ofNat 8 v) s
  let s2 := hostStore (s.pc + 1) (BitVec.ofNat 8 (v / 256)) s1
  let s3 := hostStore (s.pc + 2) (BitVec.ofNat 8 (v / 65536)) s2
  if s.jammed then s3.setT 0x00 else s3

end Sys2Proof.Machine
end

