-- ==== Sys2Proof/Safety.lean ====
section
/-! DEFINITION. The terms the statements use: the invariant of a state, what an instruction leaves alone, the operand
and the accesses of an addressing mode, the forms of an instruction as its rule lists them, which instructions write
which register and flag, and runs of transitions. -/

namespace Sys2Proof.Machine

/-! ### The invariant and runs -/

/-- The invariant every transition keeps: memory is in its canonical form. -/
def State.wf (s : State) : Bool := s.mem.wf

/-- A run of transitions, as a host invokes them one after another (R4, R6); it stops at the first one that gives no
next state. -/
def runTransitions : List Transition → State → Host.Outcome State Fault Refusal
  | [], s => .next s
  | k :: ks, s =>
    match transition k s with
    | .next t    => runTransitions ks t
    | .fault r   => .fault r
    | .refused r => .refused r

/-- Memory after the write calls of a list of callback calls, in order. -/
def replay (m : Memory) (calls : List Access) : Memory :=
  calls.foldl (fun m c => match c with | .read _ => m | .write a v => m.write a.toNat v) m

/-- The number of write calls in a list of callback calls. -/
def writeCalls (calls : List Access) : Nat :=
  calls.countP (fun c => match c with | .read _ => false | .write _ _ => true)

/-! ### Frames -/

/-- What a transition may change beside PC, T and the access list: registers, flags, stored
bytes, and the count of free values drawn. -/
structure Writes where
  a : Bool := false
  x : Bool := false
  y : Bool := false
  sp : Bool := false
  flags : List Flag := []
  stores : List Word := []
  draws : Bool := false

/-- `t` differs from `s` in nothing but PC, T, the access list and what `w` names: every register, every flag of P
and every byte of memory that `w` does not name is the same, and so are the parameters and the count of draws. -/
def OnlyWrites (w : Writes) (s t : State) : Prop :=
  (w.a = false → t.a = s.a) ∧ (w.x = false → t.x = s.x) ∧ (w.y = false → t.y = s.y) ∧ (w.sp = false → t.sp = s.sp) ∧
  (∀ f, f ∉ w.flags → t.flag f = s.flag f) ∧ (∀ ad, ad ∉ w.stores → t.peek ad = s.peek ad) ∧
  t.cfg = s.cfg ∧ (w.draws = false → t.draws = s.draws)

/-- The byte at an address given as a number modulo 2^16. -/
def byteAt (s : State) (n : Nat) : Nat := (s.mem.read (n % 65536)).toNat

/-- N and Z are those of a byte (R30). -/
def HasNZ (t : State) (v : Byte) : Prop := t.flag .N = v.getLsbD 7 ∧ t.flag .Z = decide (v.toNat = 0)

/-! ### Operands -/

/-- The effective address of a memory operand, as the model resolves it. -/
def ea (m : Address) (s : State) : Word := (resolve m s).ea

/-- The page-cross flag of a read operand. -/
def crossOf (o : Source) (s : State) : Bool :=
  match o with
  | .imm _ => false
  | .mem m => (resolve m s).cross

/-- The value of a read operand. -/
def valueOf (o : Source) (s : State) : Byte :=
  match o with
  | .imm v => v
  | .mem m => s.peek (ea m s)

/-- The pointer reads of a memory operand, in order (R53, R70). -/
def pointerReads (m : Address) (s : State) : List Access :=
  match m with
  | .indX z => [.read (zeroPage (z + s.x)), .read (zeroPage (z + s.x + 1))]
  | .indY z => [.read (zeroPage z), .read (zeroPage (z + 1))]
  | .zp _ | .zpX _ | .zpY _ | .abs _ | .absX _ | .absY _ => []

/-- The reads of a read operand, in order, after those of the instruction's own bytes (R53). -/
def operandReads (o : Source) (s : State) : List Access :=
  match o with
  | .imm _ => []
  | .mem m => pointerReads m s ++ [.read (ea m s)]

/-! ### Forms -/

/-- A form of an instruction as its rule lists it: a mode, its opcode, its base count, and whether a page cross adds
one cycle (`+p`). -/
structure Form where
  mode : Mode
  opcode : Byte
  base : Nat
  penalty : Bool := false

/-- The end of an instruction that goes on with the next one: PC is past its bytes, the opcode is the form's, and T is
the form's count, plus one where the form has `+p` and the address crossed a page (R82). -/
def Ends (f : Form) (i : Instr) (cross : Bool) (s t : State) : Prop :=
  i.opcode = some f.opcode ∧ t.pc.toNat = (s.pc.toNat + i.length) % 65536 ∧
  t.t.toNat = f.base + (if f.penalty && cross then 1 else 0)

/-- The eight forms of the accumulator instructions that read an operand, given their opcodes in the order of modes of
R100, R141, R144, R148 and R170. -/
def accumulatorForms (ops : Byte × Byte × Byte × Byte × Byte × Byte × Byte × Byte) : List Form :=
  let (imm, zp, zpX, abs, absX, absY, indX, indY) := ops
  [⟨.imm, imm, 2, false⟩, ⟨.zp, zp, 3, false⟩, ⟨.zpX, zpX, 4, false⟩, ⟨.abs, abs, 4, false⟩, ⟨.absX, absX, 4, true⟩,
   ⟨.absY, absY, 4, true⟩, ⟨.indX, indX, 6, false⟩, ⟨.indY, indY, 5, true⟩]

def ldaForms : List Form := accumulatorForms (0xA9, 0xA5, 0xB5, 0xAD, 0xBD, 0xB9, 0xA1, 0xB1)
def adcForms : List Form := accumulatorForms (0x69, 0x65, 0x75, 0x6D, 0x7D, 0x79, 0x61, 0x71)
def sbcForms : List Form := accumulatorForms (0xE9, 0xE5, 0xF5, 0xED, 0xFD, 0xF9, 0xE1, 0xF1)
def cmpForms : List Form := accumulatorForms (0xC9, 0xC5, 0xD5, 0xCD, 0xDD, 0xD9, 0xC1, 0xD1)
def andForms : List Form := accumulatorForms (0x29, 0x25, 0x35, 0x2D, 0x3D, 0x39, 0x21, 0x31)
def oraForms : List Form := accumulatorForms (0x09, 0x05, 0x15, 0x0D, 0x1D, 0x19, 0x01, 0x11)
def eorForms : List Form := accumulatorForms (0x49, 0x45, 0x55, 0x4D, 0x5D, 0x59, 0x41, 0x51)

/-- R101. -/
def ldxForms : List Form :=
  [⟨.imm, 0xA2, 2, false⟩, ⟨.zp, 0xA6, 3, false⟩, ⟨.zpY, 0xB6, 4, false⟩, ⟨.abs, 0xAE, 4, false⟩, ⟨.absY, 0xBE, 4, true⟩]

/-- R102. -/
def ldyForms : List Form :=
  [⟨.imm, 0xA0, 2, false⟩, ⟨.zp, 0xA4, 3, false⟩, ⟨.zpX, 0xB4, 4, false⟩, ⟨.abs, 0xAC, 4, false⟩, ⟨.absX, 0xBC, 4, true⟩]

/-- R103. -/
def staForms : List Form :=
  [⟨.zp, 0x85, 3, false⟩, ⟨.zpX, 0x95, 4, false⟩, ⟨.abs, 0x8D, 4, false⟩, ⟨.absX, 0x9D, 5, false⟩,
   ⟨.absY, 0x99, 5, false⟩, ⟨.indX, 0x81, 6, false⟩, ⟨.indY, 0x91, 6, false⟩]

/-- R104. -/
def stxForms : List Form := [⟨.zp, 0x86, 3, false⟩, ⟨.zpY, 0x96, 4, false⟩, ⟨.abs, 0x8E, 4, false⟩]

/-- R105. -/
def styForms : List Form := [⟨.zp, 0x84, 3, false⟩, ⟨.zpX, 0x94, 4, false⟩, ⟨.abs, 0x8C, 4, false⟩]

/-- R149. -/
def cpxForms : List Form := [⟨.imm, 0xE0, 2, false⟩, ⟨.zp, 0xE4, 3, false⟩, ⟨.abs, 0xEC, 4, false⟩]

/-- R150. -/
def cpyForms : List Form := [⟨.imm, 0xC0, 2, false⟩, ⟨.zp, 0xC4, 3, false⟩, ⟨.abs, 0xCC, 4, false⟩]

/-- R173. -/
def bitForms : List Form := [⟨.zp, 0x24, 3, false⟩, ⟨.abs, 0x2C, 4, false⟩]

/-- A one-byte form in implied or accumulator mode. -/
def oneByte (mode : Mode) (op : Byte) (base : Nat) : Form := ⟨mode, op, base, false⟩

/-- The four memory forms of a read-modify-write instruction, given their opcodes in the order of modes of R151 and
R174. -/
def modifyForms (ops : Byte × Byte × Byte × Byte) : List Form :=
  let (zp, zpX, abs, absX) := ops
  [⟨.zp, zp, 5, false⟩, ⟨.zpX, zpX, 6, false⟩, ⟨.abs, abs, 6, false⟩, ⟨.absX, absX, 7, false⟩]

def incForms : List Form := modifyForms (0xE6, 0xF6, 0xEE, 0xFE)
def decForms : List Form := modifyForms (0xC6, 0xD6, 0xCE, 0xDE)
def aslForms : List Form := modifyForms (0x06, 0x16, 0x0E, 0x1E)
def lsrForms : List Form := modifyForms (0x46, 0x56, 0x4E, 0x5E)
def rolForms : List Form := modifyForms (0x26, 0x36, 0x2E, 0x3E)
def rorForms : List Form := modifyForms (0x66, 0x76, 0x6E, 0x7E)

/-! ### Transfers of control -/

/-- What a conditional branch leaves (R194, R82): taken, PC is the signed offset past the next instruction's address,
modulo 2^16, and T is 3, or 4 if that address lies in another page; not taken, PC is the next instruction's and T is 2.
Nothing else changes and nothing is accessed. -/
def Branched (op : Byte) (i : Instr) (off : Byte) (taken : Bool) (s t : State) : Prop :=
  i.opcode = some op ∧
  (t.pc.toNat : Int) = (s.pc.toNat + 2 + (if taken then off.toInt else 0)) % 65536 ∧
  t.t.toNat = (if taken then (if t.pc.toNat / 256 = (s.pc.toNat + 2) % 65536 / 256 then 3 else 4) else 2) ∧
  OnlyWrites {} s t ∧ t.bus = s.bus

/-- What interrupt entry leaves (R244, R204): the return address and a copy of P on the stack, high byte first; S three
lower; I set and every other flag kept; PC from the vector, low byte first; nothing else changed; and the accesses in
order. -/
def Entered (vector : Word) (ret : Word) (pushed : Byte) (s t : State) : Prop :=
  t.peek (stackAddr s.sp) = hiByte ret ∧ t.peek (stackAddr (s.sp - 1)) = loByte ret ∧
  t.peek (stackAddr (s.sp - 2)) = pushed ∧ t.sp = s.sp - 3 ∧ t.flag .I = true ∧
  t.pc = joinBytes (s.peek (vector + 1)) (s.peek vector) ∧
  OnlyWrites { sp := true, flags := [.I], stores := [stackAddr s.sp, stackAddr (s.sp - 1), stackAddr (s.sp - 2)] } s t ∧
  t.bus = s.bus ++ [.write (stackAddr s.sp) (hiByte ret), .write (stackAddr (s.sp - 1)) (loByte ret),
    .write (stackAddr (s.sp - 2)) pushed, .read vector, .read (vector + 1)]

/-! ### Decimal numbers -/

/-- Whether both nibbles of a byte are decimal digits. -/
def isBcd (v : Byte) : Prop := v.toNat / 16 ≤ 9 ∧ v.toNat % 16 ≤ 9

/-- The number a byte of two decimal digits stands for. -/
def bcd (v : Byte) : Nat := v.toNat / 16 * 10 + v.toNat % 16

end Sys2Proof.Machine

/-! ### Who writes what -/

namespace Sys2Proof

open Machine

/-- The instructions that write A (R21). -/
def Instr.writesA : Instr → Bool
  | .lda _ | .pla | .txa | .tya | .adc _ | .sbc _ | .and _ | .ora _ | .eor _ => true
  | .asl t | .lsr t | .rol t | .ror t => t == .acc
  | _ => false

/-- The instructions that write X (R22). -/
def Instr.writesX : Instr → Bool
  | .ldx _ | .tax | .tsx | .inx | .dex => true
  | _ => false

/-- The instructions that write Y (R23). -/
def Instr.writesY : Instr → Bool
  | .ldy _ | .tay | .iny | .dey => true
  | _ => false

/-- The instructions that write S (R24). -/
def Instr.writesSp : Instr → Bool
  | .txs | .pha | .php | .pla | .plp | .jsr _ | .rts | .brk | .rti => true
  | _ => false

/-- The instructions that write N and Z (R27). -/
def Instr.writesNZ : Instr → Bool
  | .lda _ | .ldx _ | .ldy _ | .tax | .tay | .txa | .tya | .tsx | .pla | .adc _ | .sbc _ | .and _ | .ora _ | .eor _
  | .bit _ | .cmp _ | .cpx _ | .cpy _ | .inc _ | .dec _ | .inx | .iny | .dex | .dey | .asl _ | .lsr _ | .rol _ | .ror _
  | .plp | .rti => true
  | _ => false

/-- The instructions that write a flag (R27). -/
def Instr.writesFlag (f : Flag) (i : Instr) : Bool :=
  match f, i with
  | .N, i => i.writesNZ
  | .Z, i => i.writesNZ
  | .C, .adc _ | .C, .sbc _ | .C, .cmp _ | .C, .cpx _ | .C, .cpy _ | .C, .asl _ | .C, .lsr _ | .C, .rol _ | .C, .ror _
  | .C, .clc | .C, .sec => true
  | .I, .sei | .I, .cli | .I, .brk => true
  | .D, .sed | .D, .cld => true
  | .V, .adc _ | .V, .sbc _ | .V, .bit _ | .V, .clv => true
  | _, .plp | _, .rti => true
  | _, _ => false

/-- How many bytes an instruction writes (R54). -/
def Instr.writeCount : Instr → Nat
  | .sta _ | .stx _ | .sty _ | .pha | .php | .inc _ | .dec _ => 1
  | .asl t | .lsr t | .rol t | .ror t => if t == .acc then 0 else 1
  | .jsr _ => 2
  | .brk => 3
  | _ => 0

/-- Whether an instruction is an invalid opcode. -/
def Instr.isJam : Instr → Bool
  | .jam _ => true
  | _ => false

end Sys2Proof
end

