-- ==== Sys2Proof/Certificates/Slice0/Obligations.lean ====
section
/-! DEFINITION. The statements for the provers. Each is about every state and every operand its hypotheses name; the
parameters of R9 and the free values are part of the state or have no body, so each holds for every choice of them. -/

open Sys2Proof Sys2Proof.Machine

/-! ### Encoding and decoding -/

/-- Decoding the bytes of a well-formed instruction gives the instruction back, whatever follows them. -/
def Obligations.DecodeOfEncode : Prop :=
  ∀ i : Instr, i.wf = true → ∃ bytes, encode i = some bytes ∧ ∀ rest, decode (bytes ++ rest) = .ok (i, rest)

/-- R84: every opcode with any bytes after it decodes, to a well-formed instruction whose bytes are the ones it was read
from; so no two instructions share an encoding and no opcode is left out. -/
def Obligations.EncodeOfDecode : Prop :=
  ∀ op b1 b2 : Byte, ∃ i rest, decode [op, b1, b2] = .ok (i, rest) ∧ i.wf = true ∧
    ∃ bytes, encode i = some bytes ∧ bytes ++ rest = [op, b1, b2] ∧ bytes.length = i.length

/-- R84, R230: the opcodes that decode to a jam are the 105 listed ones, and the list has no repeats. -/
def Obligations.JamOpcodesAreTheListed105 : Prop :=
  (∀ op b1 b2 : Byte, (decodeOp op b1 b2).isJam = true ↔ op ∈ invalidOpcodes) ∧
  invalidOpcodes.Nodup ∧ invalidOpcodes.length = 105

/-- Words written out from the encoding tables: one or two of each family. -/
def Obligations.SampleWordsDecode : Prop :=
  decode [0xA9, 0x05] = .ok (.lda (.imm 0x05), []) ∧ decode [0x91, 0x10] = .ok (.sta (.indY 0x10), []) ∧
  decode [0xBA] = .ok (.tsx, []) ∧ decode [0x7D, 0xFF, 0x02] = .ok (.adc (.mem (.absX 0x02FF)), []) ∧
  decode [0x5E, 0x33, 0x12] = .ok (.lsr (.mem (.absX 0x1233)), []) ∧ decode [0x0A] = .ok (.asl .acc, []) ∧
  decode [0x20, 0x34, 0x12] = .ok (.jsr 0x1234, []) ∧ decode [0x6C, 0xFF, 0x10] = .ok (.jmpInd 0x10FF, []) ∧
  decode [0xD0, 0xFD] = .ok (.bne 0xFD, []) ∧ decode [0x78] = .ok (.sei, []) ∧ decode [0x02] = .ok (.jam 0x02, [])

/-- The form lists of the rules are complete: an operand is legal for an instruction exactly when its mode is in the
list; a well-formed term always runs, as the spec has it (R243). That a term which is not well-formed is refused, as
`noEncoding`, is the model's choice and no rule of the spec (DESIGN CHOICE, log entry 9). -/
def Obligations.OnlyWellFormedInstructionsRun : Prop :=
  (∀ i s, i.wf = true → ∃ t, exec i s = .next t) ∧
  (∀ i s, i.wf = false → exec i s = .refused .noEncoding) ∧
  (∀ o, (Instr.lda o).wf = true ↔ o.mode ∈ ldaForms.map Form.mode) ∧
  (∀ o, (Instr.ldx o).wf = true ↔ o.mode ∈ ldxForms.map Form.mode) ∧
  (∀ o, (Instr.ldy o).wf = true ↔ o.mode ∈ ldyForms.map Form.mode) ∧
  (∀ m, (Instr.sta m).wf = true ↔ m.mode ∈ staForms.map Form.mode) ∧
  (∀ m, (Instr.stx m).wf = true ↔ m.mode ∈ stxForms.map Form.mode) ∧
  (∀ m, (Instr.sty m).wf = true ↔ m.mode ∈ styForms.map Form.mode) ∧
  (∀ o, (Instr.adc o).wf = true ↔ o.mode ∈ adcForms.map Form.mode) ∧
  (∀ o, (Instr.sbc o).wf = true ↔ o.mode ∈ sbcForms.map Form.mode) ∧
  (∀ o, (Instr.cmp o).wf = true ↔ o.mode ∈ cmpForms.map Form.mode) ∧
  (∀ o, (Instr.cpx o).wf = true ↔ o.mode ∈ cpxForms.map Form.mode) ∧
  (∀ o, (Instr.cpy o).wf = true ↔ o.mode ∈ cpyForms.map Form.mode) ∧
  (∀ m, (Instr.inc m).wf = true ↔ m.mode ∈ incForms.map Form.mode) ∧
  (∀ m, (Instr.dec m).wf = true ↔ m.mode ∈ decForms.map Form.mode) ∧
  (∀ o, (Instr.and o).wf = true ↔ o.mode ∈ andForms.map Form.mode) ∧
  (∀ o, (Instr.ora o).wf = true ↔ o.mode ∈ oraForms.map Form.mode) ∧
  (∀ o, (Instr.eor o).wf = true ↔ o.mode ∈ eorForms.map Form.mode) ∧
  (∀ m, (Instr.bit m).wf = true ↔ m.mode ∈ bitForms.map Form.mode) ∧
  (∀ t, (Instr.asl t).wf = true ↔ t.mode ∈ Mode.acc :: aslForms.map Form.mode) ∧
  (∀ t, (Instr.lsr t).wf = true ↔ t.mode ∈ Mode.acc :: lsrForms.map Form.mode) ∧
  (∀ t, (Instr.rol t).wf = true ↔ t.mode ∈ Mode.acc :: rolForms.map Form.mode) ∧
  (∀ t, (Instr.ror t).wf = true ↔ t.mode ∈ Mode.acc :: rorForms.map Form.mode)

/-! ### The step and the whole machine -/

/-- R80, R53: when the bytes at PC decode to an instruction, a Step of a block that is not jammed is that instruction's
meaning, on the state with PC still at the opcode and the access list holding the reads of the instruction's own bytes,
in address order, and no other. -/
def Obligations.StepRunsTheDecodedInstruction : Prop :=
  ∀ (s : State) (i : Instr) (rest : List Byte), s.t ≠ 0xFF →
    decode [s.peek s.pc, s.peek (s.pc + 1), s.peek (s.pc + 2)] = .ok (i, rest) →
    step s = exec i (s.setBus ((List.range i.length).map fun k => Access.read (s.pc + BitVec.ofNat 16 k)))

/-- R243: no transition faults or refuses, so a run of transitions of any length, from any state, answers a state. -/
def Obligations.EveryRunAnswers : Prop :=
  ∀ (ks : List Transition) (s : State), ∃ t, runTransitions ks s = .next t

/-- R232: while `T = 0xFF`, Step, IRQ and NMI change no register and no memory and access nothing; Reset leaves the
state. -/
def Obligations.JamIsTerminal : Prop :=
  (∀ s : State, s.t = 0xFF → ∀ k : Transition, k ≠ .reset → transition k s = .next (s.setBus [])) ∧
  ∀ s t : State, transition .reset s = .next t → t.t ≠ 0xFF

/-- R29, R233: after a Step of a block that is not jammed, T is the sentinel exactly when the opcode was invalid, and
else a count from 2 to 7; a taken IRQ and an NMI leave 7, a skipped IRQ leaves T, and Reset never leaves the sentinel. -/
def Obligations.OnlyAnInvalidOpcodeJams : Prop :=
  (∀ s t, s.t ≠ 0xFF → step s = .next t →
    (t.t = 0xFF ↔ s.peek s.pc ∈ invalidOpcodes) ∧ (t.t ≠ 0xFF → 2 ≤ t.t.toNat ∧ t.t.toNat ≤ 7)) ∧
  (∀ s, s.t ≠ 0xFF → (irq s).t = (if s.flag .I then s.t else 7) ∧ (nmi s).t = 7) ∧
  (∀ s, (resetBlock s).t ≠ 0xFF)

/-- Every transition keeps memory in its canonical form. -/
def Obligations.MemoryStaysCanonical : Prop :=
  ∀ (k : Transition) (s t : State), s.wf = true → transition k s = .next t → t.wf = true

/-- The canonical form holds after Reset, and two memories in it that read alike at every address are the same list. -/
def Obligations.CanonicalMemoriesAreData : Prop :=
  State.reset.wf = true ∧
  ∀ m m' : Memory, m.wf = true → m'.wf = true → (∀ a, a < 65536 → m.read a = m'.read a) → m = m'

/-- R41: the write calls are the only way a transition changes memory. Replaying the calls of the transition on the
memory before it gives the memory after it. -/
def Obligations.MemoryChangesOnlyByWriteCalls : Prop :=
  ∀ (k : Transition) (s t : State), transition k s = .next t → t.mem = replay s.mem t.bus

/-- R54: the number of write calls of a transition is fixed by the opcode; a skipped IRQ, a jammed block and Reset make
none. -/
def Obligations.WriteCallsAreFixedByTheOpcode : Prop :=
  (∀ s t i rest, s.t ≠ 0xFF → decode [s.peek s.pc, s.peek (s.pc + 1), s.peek (s.pc + 2)] = .ok (i, rest) →
    step s = .next t → writeCalls t.bus = i.writeCount) ∧
  (∀ s, writeCalls (irq s).bus = if s.t = 0xFF ∨ s.flag .I = true then 0 else 3) ∧
  (∀ s, writeCalls (nmi s).bus = if s.t = 0xFF then 0 else 3) ∧
  (∀ s, writeCalls (resetBlock s).bus = 0)

/-- R290: no rule reads T but the jam checks. Two states that differ only in T and in the access list of the transition
before take the same Step, IRQ and NMI, unless exactly one of them is jammed; only a skipped IRQ hands T on. -/
def Obligations.OnlyTheJamCheckReadsT : Prop :=
  ∀ (s : State) (v : Byte) (l : List Access), s.t ≠ 0xFF → v ≠ 0xFF →
    step ((s.setT v).setBus l) = step s ∧ nmi ((s.setT v).setBus l) = nmi s ∧
    (s.flag .I = false → irq ((s.setT v).setBus l) = irq s) ∧ resetBlock ((s.setT v).setBus l) = resetBlock s

/-- R21 to R24: a Step changes A, X, Y or S only if its instruction is one the rule lists. -/
def Obligations.RegistersAreWrittenOnlyAsListed : Prop :=
  ∀ s t i rest, s.t ≠ 0xFF → decode [s.peek s.pc, s.peek (s.pc + 1), s.peek (s.pc + 2)] = .ok (i, rest) →
    step s = .next t →
    (i.writesA = false → t.a = s.a) ∧ (i.writesX = false → t.x = s.x) ∧
    (i.writesY = false → t.y = s.y) ∧ (i.writesSp = false → t.sp = s.sp)

/-- R27, R247: a flag that the table does not list for an instruction is left unchanged by it; IRQ and NMI change no
flag but I, and Reset none but U and I. The last clause, that no transition changes the implementation parameters of R9,
is the model's choice of holding them in `cfg` and no rule of the spec (DESIGN CHOICE, log entry 1). -/
def Obligations.FlagsAreWrittenOnlyAsListed : Prop :=
  (∀ s t i rest, s.t ≠ 0xFF → decode [s.peek s.pc, s.peek (s.pc + 1), s.peek (s.pc + 2)] = .ok (i, rest) →
    step s = .next t → ∀ f, i.writesFlag f = false → t.flag f = s.flag f) ∧
  (∀ s f, f ≠ .I → (irq s).flag f = s.flag f ∧ (nmi s).flag f = s.flag f) ∧
  (∀ s f, f ≠ .U → f ≠ .I → (resetBlock s).flag f = s.flag f) ∧
  (∀ (k : Transition) (s t : State), transition k s = .next t → t.cfg = s.cfg)

/-- R7: a transition is a function of the registers before it and of the bytes its read calls give. With another memory
that agrees on every address the transition reads, it makes the same calls and leaves the same registers, and its
writes are replayed on that memory. -/
def Obligations.TransitionsDependOnlyOnWhatTheyRead : Prop :=
  ∀ (k : Transition) (s t : State) (m : Memory), transition k s = .next t →
    (∀ a, Access.read a ∈ t.bus → m.read a.toNat = s.peek a) →
    transition k (s.setMem m) = .next (t.setMem (replay m t.bus))

/-- R31: equality of register records compares every register but T. -/
def Obligations.EqualityIgnoresT : Prop :=
  ∀ r q : Registers, r.same q = true ↔
    (r.pc = q.pc ∧ r.a = q.a ∧ r.x = q.x ∧ r.y = q.y ∧ r.p = q.p ∧ r.sp = q.sp)

/-- R34, R57: the host may replace the register record, T included, and any byte of memory; nothing else changes. -/
def Obligations.HostReplacesRegistersAndBytes : Prop :=
  (∀ (r : Registers) (s : State), (hostSetRegisters r s).registers = r ∧ (hostSetRegisters r s).mem = s.mem ∧
    (hostSetRegisters r s).cfg = s.cfg ∧ (hostSetRegisters r s).draws = s.draws) ∧
  (∀ (a : Word) (v : Byte) (s : State), (hostStore a v s).registers = s.registers ∧
    ∀ b, (hostStore a v s).peek b = if b = a then v else s.peek b)

/-! ### Memory, operands and the stack -/

/-- R52, R55: a read gives the byte written last at its address, and a write changes no other address. -/
def Obligations.ReadGivesTheLastWrite : Prop :=
  ∀ (s : State) (a b : Word) (v : Byte),
    (memWrite a v s).peek b = (if b = a then v else s.peek b) ∧ (memRead b (memWrite a v s)).1 = (memWrite a v s).peek b ∧
    (hostStore a v s).peek b = (if b = a then v else s.peek b)

/-- R71, R72, R44, R45: the effective address of every memory mode as a number, and its page-cross flag. Zero-page
modes and zero-page pointers wrap modulo 256, absolute and `(zp),Y` addresses modulo 65536; the flag is set exactly
when an address formed with an index from a 16-bit base lies in another page. -/
def Obligations.EffectiveAddresses : Prop :=
  ∀ (s : State) (z : Byte) (a : Word),
    (ea (.zp z) s).toNat = z.toNat ∧ (resolve (.zp z) s).cross = false ∧
    (ea (.zpX z) s).toNat = (z.toNat + s.x.toNat) % 256 ∧ (resolve (.zpX z) s).cross = false ∧
    (ea (.zpY z) s).toNat = (z.toNat + s.y.toNat) % 256 ∧ (resolve (.zpY z) s).cross = false ∧
    ea (.abs a) s = a ∧ (resolve (.abs a) s).cross = false ∧
    (ea (.absX a) s).toNat = (a.toNat + s.x.toNat) % 65536 ∧
    (resolve (.absX a) s).cross = decide ((a.toNat + s.x.toNat) % 65536 / 256 ≠ a.toNat / 256) ∧
    (ea (.absY a) s).toNat = (a.toNat + s.y.toNat) % 65536 ∧
    (resolve (.absY a) s).cross = decide ((a.toNat + s.y.toNat) % 65536 / 256 ≠ a.toNat / 256) ∧
    (ea (.indX z) s).toNat =
      byteAt s ((z.toNat + s.x.toNat) % 256) + 256 * byteAt s ((z.toNat + s.x.toNat + 1) % 256) ∧
    (resolve (.indX z) s).cross = false ∧
    (ea (.indY z) s).toNat =
      (byteAt s z.toNat + 256 * byteAt s ((z.toNat + 1) % 256) + s.y.toNat) % 65536 ∧
    (resolve (.indY z) s).cross =
      decide ((ea (.indY z) s).toNat / 256 ≠ byteAt s ((z.toNat + 1) % 256))

/-- R46, R47: a push writes at `$0100 + S` and lowers S, a pull raises S and reads at `$0100 + S`, both modulo 256 inside
the stack page; a pull after a push gives the byte back and restores S. -/
def Obligations.StackStaysInItsPage : Prop :=
  ∀ (s : State) (v : Byte),
    ((push v s).sp.toNat = (s.sp.toNat + 255) % 256 ∧ byteAt (push v s) (256 + s.sp.toNat) = v.toNat ∧
      (∀ n, n < 65536 → n ≠ 256 + s.sp.toNat → byteAt (push v s) n = byteAt s n) ∧
      ∃ a : Word, a.toNat = 256 + s.sp.toNat ∧ (push v s).bus = s.bus ++ [.write a v]) ∧
    ((pull s).2.sp.toNat = (s.sp.toNat + 1) % 256 ∧ (pull s).1.toNat = byteAt s (256 + (s.sp.toNat + 1) % 256) ∧
      (∀ n, byteAt (pull s).2 n = byteAt s n) ∧
      ∃ a : Word, a.toNat = 256 + (s.sp.toNat + 1) % 256 ∧ (pull s).2.bus = s.bus ++ [.read a]) ∧
    ((pull (push v s)).1 = v ∧ (pull (push v s)).2.sp = s.sp)

/-! ### Loads, stores, transfers and stack instructions -/

/-- R100 to R102: LDA, LDX and LDY in every form. -/
def Obligations.LoadsSetRegisterAndNZ : Prop :=
  (∀ f ∈ ldaForms, ∀ o s, o.mode = f.mode → ∃ t, exec (.lda o) s = .next t ∧
    t.a = valueOf o s ∧ HasNZ t (valueOf o s) ∧ OnlyWrites { a := true, flags := [.N, .Z] } s t ∧
    Ends f (.lda o) (crossOf o s) s t ∧ t.bus = s.bus ++ operandReads o s) ∧
  (∀ f ∈ ldxForms, ∀ o s, o.mode = f.mode → ∃ t, exec (.ldx o) s = .next t ∧
    t.x = valueOf o s ∧ HasNZ t (valueOf o s) ∧ OnlyWrites { x := true, flags := [.N, .Z] } s t ∧
    Ends f (.ldx o) (crossOf o s) s t ∧ t.bus = s.bus ++ operandReads o s) ∧
  (∀ f ∈ ldyForms, ∀ o s, o.mode = f.mode → ∃ t, exec (.ldy o) s = .next t ∧
    t.y = valueOf o s ∧ HasNZ t (valueOf o s) ∧ OnlyWrites { y := true, flags := [.N, .Z] } s t ∧
    Ends f (.ldy o) (crossOf o s) s t ∧ t.bus = s.bus ++ operandReads o s)

/-- R103 to R105: STA, STX and STY in every form store at the effective address, with no read of it and no flag. -/
def Obligations.StoresWriteOneByte : Prop :=
  (∀ f ∈ staForms, ∀ m s, m.mode = f.mode → ∃ t, exec (.sta m) s = .next t ∧
    t.peek (ea m s) = s.a ∧ OnlyWrites { stores := [ea m s] } s t ∧
    Ends f (.sta m) (resolve m s).cross s t ∧ t.bus = s.bus ++ pointerReads m s ++ [.write (ea m s) s.a]) ∧
  (∀ f ∈ stxForms, ∀ m s, m.mode = f.mode → ∃ t, exec (.stx m) s = .next t ∧
    t.peek (ea m s) = s.x ∧ OnlyWrites { stores := [ea m s] } s t ∧
    Ends f (.stx m) (resolve m s).cross s t ∧ t.bus = s.bus ++ pointerReads m s ++ [.write (ea m s) s.x]) ∧
  (∀ f ∈ styForms, ∀ m s, m.mode = f.mode → ∃ t, exec (.sty m) s = .next t ∧
    t.peek (ea m s) = s.y ∧ OnlyWrites { stores := [ea m s] } s t ∧
    Ends f (.sty m) (resolve m s).cross s t ∧ t.bus = s.bus ++ pointerReads m s ++ [.write (ea m s) s.y])

/-- R120 to R125: the six transfers; TXS alone leaves N and Z. -/
def Obligations.TransfersCopyOneRegister : Prop :=
  ∀ s : State,
    (∃ t, exec .tax s = .next t ∧ t.x = s.a ∧ HasNZ t s.a ∧ OnlyWrites { x := true, flags := [.N, .Z] } s t ∧
      Ends (oneByte .impl 0xAA 2) .tax false s t ∧ t.bus = s.bus) ∧
    (∃ t, exec .tay s = .next t ∧ t.y = s.a ∧ HasNZ t s.a ∧ OnlyWrites { y := true, flags := [.N, .Z] } s t ∧
      Ends (oneByte .impl 0xA8 2) .tay false s t ∧ t.bus = s.bus) ∧
    (∃ t, exec .txa s = .next t ∧ t.a = s.x ∧ HasNZ t s.x ∧ OnlyWrites { a := true, flags := [.N, .Z] } s t ∧
      Ends (oneByte .impl 0x8A 2) .txa false s t ∧ t.bus = s.bus) ∧
    (∃ t, exec .tya s = .next t ∧ t.a = s.y ∧ HasNZ t s.y ∧ OnlyWrites { a := true, flags := [.N, .Z] } s t ∧
      Ends (oneByte .impl 0x98 2) .tya false s t ∧ t.bus = s.bus) ∧
    (∃ t, exec .tsx s = .next t ∧ t.x = s.sp ∧ HasNZ t s.sp ∧ OnlyWrites { x := true, flags := [.N, .Z] } s t ∧
      Ends (oneByte .impl 0xBA 2) .tsx false s t ∧ t.bus = s.bus) ∧
    (∃ t, exec .txs s = .next t ∧ t.sp = s.x ∧ OnlyWrites { sp := true } s t ∧
      Ends (oneByte .impl 0x9A 2) .txs false s t ∧ t.bus = s.bus)

/-- R126, R127: PHA pushes A, PHP pushes P with bits 4 and 5 set and leaves the register P. -/
def Obligations.PushInstructionsWriteTheStack : Prop :=
  ∀ s : State,
    (∃ t, exec .pha s = .next t ∧ t.peek (stackAddr s.sp) = s.a ∧ t.sp = s.sp - 1 ∧
      OnlyWrites { sp := true, stores := [stackAddr s.sp] } s t ∧ Ends (oneByte .impl 0x48 3) .pha false s t ∧
      t.bus = s.bus ++ [.write (stackAddr s.sp) s.a]) ∧
    (∃ t, exec .php s = .next t ∧ t.peek (stackAddr s.sp) = s.p ||| 0x30 ∧ t.sp = s.sp - 1 ∧ t.p = s.p ∧
      OnlyWrites { sp := true, stores := [stackAddr s.sp] } s t ∧ Ends (oneByte .impl 0x08 3) .php false s t ∧
      t.bus = s.bus ++ [.write (stackAddr s.sp) (s.p ||| 0x30)])

/-- R128, R129: PLA and PLP; bits 4 and 5 of P follow `PULL_P`. -/
def Obligations.PullInstructionsReadTheStack : Prop :=
  ∀ s : State,
    (∃ t, exec .pla s = .next t ∧ t.a = s.peek (stackAddr (s.sp + 1)) ∧ HasNZ t (s.peek (stackAddr (s.sp + 1))) ∧
      t.sp = s.sp + 1 ∧ OnlyWrites { a := true, sp := true, flags := [.N, .Z] } s t ∧
      Ends (oneByte .impl 0x68 4) .pla false s t ∧ t.bus = s.bus ++ [.read (stackAddr (s.sp + 1))]) ∧
    (∃ t, exec .plp s = .next t ∧
      t.p = (match s.cfg.pullP with
        | .verbatim => s.peek (stackAddr (s.sp + 1))
        | .normalized => (s.peek (stackAddr (s.sp + 1)) &&& ~~~0x10) ||| 0x20) ∧
      t.sp = s.sp + 1 ∧ OnlyWrites { sp := true, flags := [.C, .Z, .I, .D, .B, .U, .V, .N] } s t ∧
      Ends (oneByte .impl 0x28 4) .plp false s t ∧ t.bus = s.bus ++ [.read (stackAddr (s.sp + 1))])

/-! ### Arithmetic -/

/-- R141: binary ADC in every form. -/
def Obligations.AdcBinaryAddsWithCarry : Prop :=
  ∀ f ∈ adcForms, ∀ o s, o.mode = f.mode → s.flag .D = false → ∃ t, exec (.adc o) s = .next t ∧
    t.a.toNat = (s.a.toNat + (valueOf o s).toNat + (s.flag .C).toNat) % 256 ∧
    t.flag .C = decide (255 < s.a.toNat + (valueOf o s).toNat + (s.flag .C).toNat) ∧
    t.flag .V = ((s.a ^^^ t.a) &&& (valueOf o s ^^^ t.a)).getLsbD 7 ∧ HasNZ t t.a ∧
    OnlyWrites { a := true, flags := [.N, .V, .Z, .C] } s t ∧
    Ends f (.adc o) (crossOf o s) s t ∧ t.bus = s.bus ++ operandReads o s

/-- R144: binary SBC in every form. -/
def Obligations.SbcBinarySubtractsWithBorrow : Prop :=
  ∀ f ∈ sbcForms, ∀ o s, o.mode = f.mode → s.flag .D = false → ∃ t, exec (.sbc o) s = .next t ∧
    (t.a.toNat : Int) = ((s.a.toNat : Int) - (valueOf o s).toNat - (1 - (s.flag .C).toNat)) % 256 ∧
    t.flag .C = decide (0 ≤ (s.a.toNat : Int) - (valueOf o s).toNat - (1 - (s.flag .C).toNat)) ∧
    t.flag .V = ((s.a ^^^ valueOf o s) &&& (s.a ^^^ t.a)).getLsbD 7 ∧ HasNZ t t.a ∧
    sbcBinary s.a (valueOf o s) (s.flag .C) = adcBinary s.a (valueOf o s ^^^ 0xFF) (s.flag .C) ∧
    OnlyWrites { a := true, flags := [.N, .V, .Z, .C] } s t ∧
    Ends f (.sbc o) (crossOf o s) s t ∧ t.bus = s.bus ++ operandReads o s

/-- R140: in binary mode V reports two's-complement overflow: it is set exactly when the exact signed sum or difference
does not fit in eight bits. -/
def Obligations.OverflowIsSignedOverflow : Prop :=
  ∀ o s t, s.flag .D = false →
    (exec (.adc o) s = .next t →
      (t.flag .V = true ↔ (s.a.toInt + (valueOf o s).toInt + (s.flag .C).toNat < -128 ∨
        127 < s.a.toInt + (valueOf o s).toInt + (s.flag .C).toNat))) ∧
    (exec (.sbc o) s = .next t →
      (t.flag .V = true ↔ (s.a.toInt - (valueOf o s).toInt - (1 - (s.flag .C).toNat) < -128 ∨
        127 < s.a.toInt - (valueOf o s).toInt - (1 - (s.flag .C).toNat))))

/-- R142, R143: decimal ADC in every form: A and C by the nibble formula, which for all inputs agrees with the published
NMOS sequence (`al`, `a1`), and N, V and Z by `DECIMAL_FLAGS`. -/
def Obligations.AdcDecimalFollowsTheNibbles : Prop :=
  ∀ f ∈ adcForms, ∀ o s, o.mode = f.mode → s.flag .D = true → ∃ t, exec (.adc o) s = .next t ∧
    (let a := s.a.toNat
     let m := (valueOf o s).toNat
     let c := (s.flag .C).toNat
     let lo := a % 16 + m % 16 + c
     let lo := if lo > 9 then lo + 6 else lo
     let hi := a / 16 + m / 16 + (if lo > 15 then 1 else 0)
     let hi := if hi > 9 then hi + 6 else hi
     let al := a % 16 + m % 16 + c
     let al := if al ≥ 10 then (al + 6) % 16 + 16 else al
     let a1 := a / 16 * 16 + m / 16 * 16 + al
     let a1 := if a1 ≥ 0xA0 then a1 + 0x60 else a1
     t.a.toNat = hi % 16 * 16 + lo % 16 ∧ t.flag .C = decide (15 < hi) ∧
     t.a.toNat = a1 % 256 ∧ t.flag .C = decide (0x100 ≤ a1) ∧
     (match s.cfg.decimalFlags with
      | .doc =>
        t.flag .V = ((s.a ^^^ BitVec.ofNat 8 (a + m + c)) &&& (valueOf o s ^^^ BitVec.ofNat 8 (a + m + c))).getLsbD 7 ∧
        HasNZ t t.a
      | .nmos =>
        let a2 : Int := (s.a &&& 0xF0).toInt + (valueOf o s &&& 0xF0).toInt + al
        t.flag .N = decide (128 ≤ a2 % 256) ∧ t.flag .V = decide (a2 < -128 ∨ 127 < a2) ∧
        t.flag .Z = decide ((a + m + c) % 256 = 0))) ∧
    OnlyWrites { a := true, flags := [.N, .V, .Z, .C] } s t ∧
    Ends f (.adc o) (crossOf o s) s t ∧ t.bus = s.bus ++ operandReads o s

/-- Decimal ADC of two decimal numbers is their sum with the carry: two digits in A and a hundred in C. -/
def Obligations.AdcDecimalAddsDecimalNumbers : Prop :=
  ∀ o s t, s.flag .D = true → isBcd s.a → isBcd (valueOf o s) → exec (.adc o) s = .next t →
    isBcd t.a ∧ bcd t.a + 100 * (t.flag .C).toNat = bcd s.a + bcd (valueOf o s) + (s.flag .C).toNat

/-- R145, R146: decimal SBC under `SBC_ARG_BUG = fixed`, in every form: A and C by the nibble formula, which on A agrees
for all inputs with the published NMOS sequence (`al`, `a1`), V as in binary mode, N and Z by `DECIMAL_FLAGS`. -/
def Obligations.SbcDecimalFollowsTheNibbles : Prop :=
  ∀ f ∈ sbcForms, ∀ o s, o.mode = f.mode → s.flag .D = true → s.cfg.sbcArgBug = .fixed →
    ∃ t, exec (.sbc o) s = .next t ∧
    (let a : Int := s.a.toNat
     let m : Int := (valueOf o s).toNat
     let b : Int := 1 - (s.flag .C).toNat
     let lo := a % 16 - m % 16 - b
     let hi := a / 16 - m / 16
     let hi := if lo < 0 then hi - 1 else hi
     let lo := if lo < 0 then lo - 6 else lo
     let hi := if hi < 0 then hi - 6 else hi
     let d := a - m - b
     let al := a % 16 - m % 16 + (s.flag .C).toNat - 1
     let al := if al < 0 then (al - 6) % 16 - 16 else al
     let a1 := a / 16 * 16 - m / 16 * 16 + al
     let a1 := if a1 < 0 then a1 - 0x60 else a1
     (t.a.toNat : Int) = hi % 16 * 16 + lo % 16 ∧ t.flag .C = decide (0 ≤ d) ∧
     (t.a.toNat : Int) = a1 % 256 ∧
     t.flag .V = ((s.a ^^^ valueOf o s) &&& (s.a ^^^ BitVec.ofInt 8 d)).getLsbD 7 ∧
     (match s.cfg.decimalFlags with
      | .doc => HasNZ t t.a
      | .nmos => HasNZ t (BitVec.ofInt 8 d))) ∧
    OnlyWrites { a := true, flags := [.N, .V, .Z, .C] } s t ∧
    Ends f (.sbc o) (crossOf o s) s t ∧ t.bus = s.bus ++ operandReads o s

/-- Decimal SBC of two decimal numbers is their difference with the borrow, modulo a hundred; C is "no borrow". -/
def Obligations.SbcDecimalSubtractsDecimalNumbers : Prop :=
  ∀ o s t, s.flag .D = true → s.cfg.sbcArgBug = .fixed → isBcd s.a → isBcd (valueOf o s) →
    exec (.sbc o) s = .next t →
    isBcd t.a ∧ bcd t.a + bcd (valueOf o s) + (1 - (s.flag .C).toNat) = bcd s.a + 100 * (1 - (t.flag .C).toNat)

/-- Decimal SBC under `SBC_ARG_BUG = unconstrained` completes in every form with free values for A, N, V, Z and C, and
everything else is as in R144 to R146 (R147). That the count `draws` rises, so that the next free values are fresh, is
the model's choice and no rule of the spec (DESIGN CHOICE, log entry 6). -/
def Obligations.SbcUnconstrainedCompletes : Prop :=
  ∀ f ∈ sbcForms, ∀ o s, o.mode = f.mode → s.flag .D = true → s.cfg.sbcArgBug = .unconstrained →
    ∃ t, exec (.sbc o) s = .next t ∧
    OnlyWrites { a := true, flags := [.N, .V, .Z, .C], draws := true } s t ∧ s.draws < t.draws ∧
    Ends f (.sbc o) (crossOf o s) s t ∧ t.bus = s.bus ++ operandReads o s

/-- R148 to R150: CMP, CPX and CPY in every form; no register is written. -/
def Obligations.ComparesSetNZC : Prop :=
  (∀ f ∈ cmpForms, ∀ o s, o.mode = f.mode → ∃ t, exec (.cmp o) s = .next t ∧
    t.flag .C = decide ((valueOf o s).toNat ≤ s.a.toNat) ∧
    HasNZ t (BitVec.ofInt 8 ((s.a.toNat : Int) - (valueOf o s).toNat)) ∧ OnlyWrites { flags := [.N, .Z, .C] } s t ∧
    Ends f (.cmp o) (crossOf o s) s t ∧ t.bus = s.bus ++ operandReads o s) ∧
  (∀ f ∈ cpxForms, ∀ o s, o.mode = f.mode → ∃ t, exec (.cpx o) s = .next t ∧
    t.flag .C = decide ((valueOf o s).toNat ≤ s.x.toNat) ∧
    HasNZ t (BitVec.ofInt 8 ((s.x.toNat : Int) - (valueOf o s).toNat)) ∧ OnlyWrites { flags := [.N, .Z, .C] } s t ∧
    Ends f (.cpx o) (crossOf o s) s t ∧ t.bus = s.bus ++ operandReads o s) ∧
  (∀ f ∈ cpyForms, ∀ o s, o.mode = f.mode → ∃ t, exec (.cpy o) s = .next t ∧
    t.flag .C = decide ((valueOf o s).toNat ≤ s.y.toNat) ∧
    HasNZ t (BitVec.ofInt 8 ((s.y.toNat : Int) - (valueOf o s).toNat)) ∧ OnlyWrites { flags := [.N, .Z, .C] } s t ∧
    Ends f (.cpy o) (crossOf o s) s t ∧ t.bus = s.bus ++ operandReads o s)

/-- R151, R152: INC and DEC in every form: one read and one write of the effective address, binary whatever D is. -/
def Obligations.IncDecChangeOneByte : Prop :=
  (∀ f ∈ incForms, ∀ m s, m.mode = f.mode → ∃ t v, exec (.inc m) s = .next t ∧
    v.toNat = ((s.peek (ea m s)).toNat + 1) % 256 ∧ t.peek (ea m s) = v ∧ HasNZ t v ∧
    OnlyWrites { flags := [.N, .Z], stores := [ea m s] } s t ∧ Ends f (.inc m) (resolve m s).cross s t ∧
    t.bus = s.bus ++ pointerReads m s ++ [.read (ea m s), .write (ea m s) v]) ∧
  (∀ f ∈ decForms, ∀ m s, m.mode = f.mode → ∃ t v, exec (.dec m) s = .next t ∧
    v.toNat = ((s.peek (ea m s)).toNat + 255) % 256 ∧ t.peek (ea m s) = v ∧ HasNZ t v ∧
    OnlyWrites { flags := [.N, .Z], stores := [ea m s] } s t ∧ Ends f (.dec m) (resolve m s).cross s t ∧
    t.bus = s.bus ++ pointerReads m s ++ [.read (ea m s), .write (ea m s) v])

/-- R153 to R156: INX, INY, DEX and DEY. -/
def Obligations.IndexIncDec : Prop :=
  ∀ s : State,
    (∃ t, exec .inx s = .next t ∧ t.x.toNat = (s.x.toNat + 1) % 256 ∧ HasNZ t t.x ∧
      OnlyWrites { x := true, flags := [.N, .Z] } s t ∧ Ends (oneByte .impl 0xE8 2) .inx false s t ∧ t.bus = s.bus) ∧
    (∃ t, exec .iny s = .next t ∧ t.y.toNat = (s.y.toNat + 1) % 256 ∧ HasNZ t t.y ∧
      OnlyWrites { y := true, flags := [.N, .Z] } s t ∧ Ends (oneByte .impl 0xC8 2) .iny false s t ∧ t.bus = s.bus) ∧
    (∃ t, exec .dex s = .next t ∧ t.x.toNat = (s.x.toNat + 255) % 256 ∧ HasNZ t t.x ∧
      OnlyWrites { x := true, flags := [.N, .Z] } s t ∧ Ends (oneByte .impl 0xCA 2) .dex false s t ∧ t.bus = s.bus) ∧
    (∃ t, exec .dey s = .next t ∧ t.y.toNat = (s.y.toNat + 255) % 256 ∧ HasNZ t t.y ∧
      OnlyWrites { y := true, flags := [.N, .Z] } s t ∧ Ends (oneByte .impl 0x88 2) .dey false s t ∧ t.bus = s.bus)

/-! ### Logic, shifts and rotates -/

/-- R170 to R172: AND, ORA and EOR in every form, bit by bit. -/
def Obligations.LogicIsBitwise : Prop :=
  (∀ f ∈ andForms, ∀ o s, o.mode = f.mode → ∃ t, exec (.and o) s = .next t ∧
    (∀ k, t.a.getLsbD k = (s.a.getLsbD k && (valueOf o s).getLsbD k)) ∧ HasNZ t t.a ∧
    OnlyWrites { a := true, flags := [.N, .Z] } s t ∧
    Ends f (.and o) (crossOf o s) s t ∧ t.bus = s.bus ++ operandReads o s) ∧
  (∀ f ∈ oraForms, ∀ o s, o.mode = f.mode → ∃ t, exec (.ora o) s = .next t ∧
    (∀ k, t.a.getLsbD k = (s.a.getLsbD k || (valueOf o s).getLsbD k)) ∧ HasNZ t t.a ∧
    OnlyWrites { a := true, flags := [.N, .Z] } s t ∧
    Ends f (.ora o) (crossOf o s) s t ∧ t.bus = s.bus ++ operandReads o s) ∧
  (∀ f ∈ eorForms, ∀ o s, o.mode = f.mode → ∃ t, exec (.eor o) s = .next t ∧
    (∀ k, t.a.getLsbD k = (s.a.getLsbD k ^^ (valueOf o s).getLsbD k)) ∧ HasNZ t t.a ∧
    OnlyWrites { a := true, flags := [.N, .Z] } s t ∧
    Ends f (.eor o) (crossOf o s) s t ∧ t.bus = s.bus ++ operandReads o s)

/-- R173: BIT in every form; A is not written. -/
def Obligations.BitTestsMemory : Prop :=
  ∀ f ∈ bitForms, ∀ m s, m.mode = f.mode → ∃ t, exec (.bit m) s = .next t ∧
    (t.flag .Z = true ↔ ∀ k, (s.a.getLsbD k && (s.peek (ea m s)).getLsbD k) = false) ∧
    t.flag .N = (s.peek (ea m s)).getLsbD 7 ∧ t.flag .V = (s.peek (ea m s)).getLsbD 6 ∧
    OnlyWrites { flags := [.N, .V, .Z] } s t ∧ Ends f (.bit m) (resolve m s).cross s t ∧
    t.bus = s.bus ++ pointerReads m s ++ [.read (ea m s)]

/-- R174, R175: ASL and LSR, on A and in every memory form: the result as a number, the bit shifted out in C, N and Z of
the result; in memory, one read and one write of the effective address. -/
def Obligations.ShiftsMoveOneBit : Prop :=
  (∀ s : State, ∃ t, exec (.asl .acc) s = .next t ∧ t.a.toNat = s.a.toNat * 2 % 256 ∧
    t.flag .C = s.a.getLsbD 7 ∧ HasNZ t t.a ∧ OnlyWrites { a := true, flags := [.N, .Z, .C] } s t ∧
    Ends (oneByte .acc 0x0A 2) (.asl .acc) false s t ∧ t.bus = s.bus) ∧
  (∀ s : State, ∃ t, exec (.lsr .acc) s = .next t ∧ t.a.toNat = s.a.toNat / 2 ∧
    t.flag .C = s.a.getLsbD 0 ∧ HasNZ t t.a ∧ OnlyWrites { a := true, flags := [.N, .Z, .C] } s t ∧
    Ends (oneByte .acc 0x4A 2) (.lsr .acc) false s t ∧ t.bus = s.bus) ∧
  (∀ f ∈ aslForms, ∀ m s, m.mode = f.mode → ∃ t r, exec (.asl (.mem m)) s = .next t ∧
    r.toNat = (s.peek (ea m s)).toNat * 2 % 256 ∧
    t.flag .C = (s.peek (ea m s)).getLsbD 7 ∧ t.peek (ea m s) = r ∧ HasNZ t r ∧
    OnlyWrites { flags := [.N, .Z, .C], stores := [ea m s] } s t ∧
    Ends f (.asl (.mem m)) (resolve m s).cross s t ∧
    t.bus = s.bus ++ pointerReads m s ++ [.read (ea m s), .write (ea m s) r]) ∧
  (∀ f ∈ lsrForms, ∀ m s, m.mode = f.mode → ∃ t r, exec (.lsr (.mem m)) s = .next t ∧
    r.toNat = (s.peek (ea m s)).toNat / 2 ∧
    t.flag .C = (s.peek (ea m s)).getLsbD 0 ∧ t.peek (ea m s) = r ∧ HasNZ t r ∧
    OnlyWrites { flags := [.N, .Z, .C], stores := [ea m s] } s t ∧
    Ends f (.lsr (.mem m)) (resolve m s).cross s t ∧
    t.bus = s.bus ++ pointerReads m s ++ [.read (ea m s), .write (ea m s) r])

/-- R176, R177: ROL and ROR, on A and in every memory form: the old carry comes in at the end the shift leaves empty, and
the bit shifted out goes to C. -/
def Obligations.RotatesGoThroughCarry : Prop :=
  (∀ s : State, ∃ t, exec (.rol .acc) s = .next t ∧ t.a.toNat = s.a.toNat * 2 % 256 + (s.flag .C).toNat ∧
    t.flag .C = s.a.getLsbD 7 ∧ HasNZ t t.a ∧ OnlyWrites { a := true, flags := [.N, .Z, .C] } s t ∧
    Ends (oneByte .acc 0x2A 2) (.rol .acc) false s t ∧ t.bus = s.bus) ∧
  (∀ s : State, ∃ t, exec (.ror .acc) s = .next t ∧ t.a.toNat = s.a.toNat / 2 + (s.flag .C).toNat * 128 ∧
    t.flag .C = s.a.getLsbD 0 ∧ HasNZ t t.a ∧ OnlyWrites { a := true, flags := [.N, .Z, .C] } s t ∧
    Ends (oneByte .acc 0x6A 2) (.ror .acc) false s t ∧ t.bus = s.bus) ∧
  (∀ f ∈ rolForms, ∀ m s, m.mode = f.mode → ∃ t r, exec (.rol (.mem m)) s = .next t ∧
    r.toNat = (s.peek (ea m s)).toNat * 2 % 256 + (s.flag .C).toNat ∧
    t.flag .C = (s.peek (ea m s)).getLsbD 7 ∧ t.peek (ea m s) = r ∧ HasNZ t r ∧
    OnlyWrites { flags := [.N, .Z, .C], stores := [ea m s] } s t ∧
    Ends f (.rol (.mem m)) (resolve m s).cross s t ∧
    t.bus = s.bus ++ pointerReads m s ++ [.read (ea m s), .write (ea m s) r]) ∧
  (∀ f ∈ rorForms, ∀ m s, m.mode = f.mode → ∃ t r, exec (.ror (.mem m)) s = .next t ∧
    r.toNat = (s.peek (ea m s)).toNat / 2 + (s.flag .C).toNat * 128 ∧
    t.flag .C = (s.peek (ea m s)).getLsbD 0 ∧ t.peek (ea m s) = r ∧ HasNZ t r ∧
    OnlyWrites { flags := [.N, .Z, .C], stores := [ea m s] } s t ∧
    Ends f (.ror (.mem m)) (resolve m s).cross s t ∧
    t.bus = s.bus ++ pointerReads m s ++ [.read (ea m s), .write (ea m s) r])

/-! ### Control -/

/-- R190, R191: JMP absolute, and JMP indirect with the page wrap of `JMP_IND_WRAP`. -/
def Obligations.JumpsSetPc : Prop :=
  (∀ a s, ∃ t, exec (.jmp a) s = .next t ∧ (Instr.jmp a).opcode = some 0x4C ∧ t.pc = a ∧ t.t = 3 ∧
    OnlyWrites {} s t ∧ t.bus = s.bus) ∧
  (∀ ptr s, ∃ t hi, exec (.jmpInd ptr) s = .next t ∧ (Instr.jmpInd ptr).opcode = some 0x6C ∧
    hi.toNat = (match s.cfg.jmpIndWrap with
      | .nmos => ptr.toNat / 256 * 256 + (ptr.toNat % 256 + 1) % 256
      | .linear => (ptr.toNat + 1) % 65536) ∧
    t.pc.toNat = (s.peek ptr).toNat + 256 * (s.peek hi).toNat ∧ t.t = 5 ∧
    OnlyWrites {} s t ∧ t.bus = s.bus ++ [.read ptr, .read hi])

/-- R192, R193: JSR pushes the address of its last byte and jumps; RTS returns one past the pulled address. -/
def Obligations.SubroutineCallAndReturn : Prop :=
  (∀ a s, ∃ t, exec (.jsr a) s = .next t ∧ (Instr.jsr a).opcode = some 0x20 ∧ t.pc = a ∧ t.t = 6 ∧ t.sp = s.sp - 2 ∧
    t.peek (stackAddr s.sp) = hiByte (s.pc + 2) ∧ t.peek (stackAddr (s.sp - 1)) = loByte (s.pc + 2) ∧
    OnlyWrites { sp := true, stores := [stackAddr s.sp, stackAddr (s.sp - 1)] } s t ∧
    t.bus = s.bus ++ [.write (stackAddr s.sp) (hiByte (s.pc + 2)), .write (stackAddr (s.sp - 1)) (loByte (s.pc + 2))]) ∧
  (∀ s : State, ∃ t, exec .rts s = .next t ∧ Instr.rts.opcode = some 0x60 ∧
    t.pc.toNat = ((s.peek (stackAddr (s.sp + 1))).toNat + 256 * (s.peek (stackAddr (s.sp + 2))).toNat + 1) % 65536 ∧
    t.t = 6 ∧ t.sp = s.sp + 2 ∧ OnlyWrites { sp := true } s t ∧
    t.bus = s.bus ++ [.read (stackAddr (s.sp + 1)), .read (stackAddr (s.sp + 2))])

/-- An RTS right after a JSR comes back to the byte after the JSR with S restored (R192's StepOver, `pc0 + 3`). -/
def Obligations.ReturnUndoesCall : Prop :=
  ∀ a s t u, exec (.jsr a) s = .next t → exec .rts t = .next u → u.pc = s.pc + 3 ∧ u.sp = s.sp ∧ u.p = s.p ∧
    u.a = s.a ∧ u.x = s.x ∧ u.y = s.y

/-- R194 to R202: the eight branches. -/
def Obligations.BranchesTestOneFlag : Prop :=
  ∀ (off : Byte) (s : State),
    (∃ t, exec (.bcc off) s = .next t ∧ Branched 0x90 (.bcc off) off (decide (s.flag .C = false)) s t) ∧
    (∃ t, exec (.bcs off) s = .next t ∧ Branched 0xB0 (.bcs off) off (decide (s.flag .C = true)) s t) ∧
    (∃ t, exec (.beq off) s = .next t ∧ Branched 0xF0 (.beq off) off (decide (s.flag .Z = true)) s t) ∧
    (∃ t, exec (.bne off) s = .next t ∧ Branched 0xD0 (.bne off) off (decide (s.flag .Z = false)) s t) ∧
    (∃ t, exec (.bmi off) s = .next t ∧ Branched 0x30 (.bmi off) off (decide (s.flag .N = true)) s t) ∧
    (∃ t, exec (.bpl off) s = .next t ∧ Branched 0x10 (.bpl off) off (decide (s.flag .N = false)) s t) ∧
    (∃ t, exec (.bvc off) s = .next t ∧ Branched 0x50 (.bvc off) off (decide (s.flag .V = false)) s t) ∧
    (∃ t, exec (.bvs off) s = .next t ∧ Branched 0x70 (.bvs off) off (decide (s.flag .V = true)) s t)

/-- R204: BRK enters through the IRQ vector with the return address two past its own and B and U set in the pushed P,
whatever I is. -/
def Obligations.BrkEntersTheHandler : Prop :=
  ∀ s : State, ∃ t, exec .brk s = .next t ∧ Instr.brk.opcode = some 0x00 ∧ t.t = 7 ∧
    Entered 0xFFFE (s.pc + 2) (s.p ||| 0x30) s t

/-- R205: RTI pulls P through `PULL_P`, then PC low and high, with no adjustment. -/
def Obligations.RtiRestoresPAndPc : Prop :=
  ∀ s : State, ∃ t, exec .rti s = .next t ∧ Instr.rti.opcode = some 0x40 ∧ t.t = 6 ∧ t.sp = s.sp + 3 ∧
    t.p = (match s.cfg.pullP with
      | .verbatim => s.peek (stackAddr (s.sp + 1))
      | .normalized => (s.peek (stackAddr (s.sp + 1)) &&& ~~~0x10) ||| 0x20) ∧
    t.pc.toNat = (s.peek (stackAddr (s.sp + 2))).toNat + 256 * (s.peek (stackAddr (s.sp + 3))).toNat ∧
    OnlyWrites { sp := true, flags := [.C, .Z, .I, .D, .B, .U, .V, .N] } s t ∧
    t.bus = s.bus ++ [.read (stackAddr (s.sp + 1)), .read (stackAddr (s.sp + 2)), .read (stackAddr (s.sp + 3))]

/-- R250: RTI right after an entry resumes where the entry left off, with S and the flags C, Z, I, D, V and N restored:
at the byte after BRK's signature byte, or at the instruction that IRQ or NMI interrupted. -/
def Obligations.RtiUndoesEntry : Prop :=
  (∀ s t u, exec .brk s = .next t → exec .rti t = .next u → u.pc = s.pc + 2 ∧ u.sp = s.sp ∧
    (∀ f, f ≠ .B → f ≠ .U → u.flag f = s.flag f) ∧ u.a = s.a ∧ u.x = s.x ∧ u.y = s.y) ∧
  (∀ s u, s.t ≠ 0xFF → s.flag .I = false → exec .rti (irq s) = .next u → u.pc = s.pc ∧ u.sp = s.sp ∧
    (∀ f, f ≠ .B → f ≠ .U → u.flag f = s.flag f) ∧ u.a = s.a ∧ u.x = s.x ∧ u.y = s.y) ∧
  (∀ s u, s.t ≠ 0xFF → exec .rti (nmi s) = .next u → u.pc = s.pc ∧ u.sp = s.sp ∧
    (∀ f, f ≠ .B → f ≠ .U → u.flag f = s.flag f) ∧ u.a = s.a ∧ u.x = s.x ∧ u.y = s.y)

/-! ### Flag instructions, NOP and the jam -/

/-- R220 to R226: each flag instruction writes its one flag and nothing else. -/
def Obligations.FlagInstructionsWriteOneFlag : Prop :=
  ∀ s : State,
    (∃ t, exec .clc s = .next t ∧ t.flag .C = false ∧ OnlyWrites { flags := [.C] } s t ∧
      Ends (oneByte .impl 0x18 2) .clc false s t ∧ t.bus = s.bus) ∧
    (∃ t, exec .sec s = .next t ∧ t.flag .C = true ∧ OnlyWrites { flags := [.C] } s t ∧
      Ends (oneByte .impl 0x38 2) .sec false s t ∧ t.bus = s.bus) ∧
    (∃ t, exec .cli s = .next t ∧ t.flag .I = false ∧ OnlyWrites { flags := [.I] } s t ∧
      Ends (oneByte .impl 0x58 2) .cli false s t ∧ t.bus = s.bus) ∧
    (∃ t, exec .sei s = .next t ∧ t.flag .I = true ∧ OnlyWrites { flags := [.I] } s t ∧
      Ends (oneByte .impl 0x78 2) .sei false s t ∧ t.bus = s.bus) ∧
    (∃ t, exec .cld s = .next t ∧ t.flag .D = false ∧ OnlyWrites { flags := [.D] } s t ∧
      Ends (oneByte .impl 0xD8 2) .cld false s t ∧ t.bus = s.bus) ∧
    (∃ t, exec .sed s = .next t ∧ t.flag .D = true ∧ OnlyWrites { flags := [.D] } s t ∧
      Ends (oneByte .impl 0xF8 2) .sed false s t ∧ t.bus = s.bus) ∧
    (∃ t, exec .clv s = .next t ∧ t.flag .V = false ∧ OnlyWrites { flags := [.V] } s t ∧
      Ends (oneByte .impl 0xB8 2) .clv false s t ∧ t.bus = s.bus)

/-- R227: NOP advances PC and sets T, and P is the same byte. -/
def Obligations.NopOnlyAdvances : Prop :=
  ∀ s : State, ∃ t, exec .nop s = .next t ∧ t.p = s.p ∧ t.mem = s.mem ∧ OnlyWrites {} s t ∧
    Ends (oneByte .impl 0xEA 2) .nop false s t ∧ t.bus = s.bus

/-- R231: every invalid opcode sets T to the sentinel, leaves PC as `JAM_PC` says, and changes and accesses nothing
else; a Step that fetches one reads its byte alone. -/
def Obligations.InvalidOpcodeHalts : Prop :=
  (∀ op ∈ invalidOpcodes, ∀ s : State, ∃ t, exec (.jam op) s = .next t ∧ t.t = 0xFF ∧
    t.pc.toNat = (match s.cfg.jamPc with
      | .atOpcode => s.pc.toNat
      | .afterOpcode => (s.pc.toNat + 1) % 65536) ∧
    t.p = s.p ∧ t.mem = s.mem ∧ OnlyWrites {} s t ∧ t.bus = s.bus) ∧
  (∀ s : State, s.t ≠ 0xFF → s.peek s.pc ∈ invalidOpcodes →
    step s = exec (.jam (s.peek s.pc)) (s.setBus [.read s.pc]))

/-! ### IRQ, NMI and Reset -/

/-- R241, with R244 and R245 for IRQ: a jammed block or a set I flag makes IRQ change nothing and access nothing; else it
enters through `$FFFE` with the next instruction's address and P with B clear and U set, and T is 7. -/
def Obligations.IrqEntersOrIsSkipped : Prop :=
  ∀ s : State,
    (s.t = 0xFF → irq s = s.setBus []) ∧
    (s.flag .I = true → irq s = s.setBus []) ∧
    (s.t ≠ 0xFF → s.flag .I = false →
      Entered 0xFFFE s.pc ((s.p &&& ~~~0x10) ||| 0x20) (s.setBus []) (irq s) ∧ (irq s).t = 7)

/-- R242, with R244 and R245 for NMI: a jammed block makes NMI change nothing; else it enters through `$FFFA` whatever I
is, and T is 7. -/
def Obligations.NmiAlwaysEnters : Prop :=
  ∀ s : State,
    (s.t = 0xFF → nmi s = s.setBus []) ∧
    (s.t ≠ 0xFF →
      Entered 0xFFFA s.pc ((s.p &&& ~~~0x10) ||| 0x20) (s.setBus []) (nmi s) ∧ (nmi s).t = 7)

/-- R270, R272: Reset, in any state. T is a free value other than `0xFF`, and the other bits of P keep their values. -/
def Obligations.ResetTransitionLeavesItsState : Prop :=
  ∀ s : State, transition .reset s = .next (resetBlock s) ∧
    (resetBlock s).a = 0 ∧ (resetBlock s).x = 0 ∧ (resetBlock s).y = 0 ∧ (resetBlock s).sp = 0xFD ∧
    (resetBlock s).pc = joinBytes (s.peek 0xFFFD) (s.peek 0xFFFC) ∧
    (resetBlock s).p = (match s.cfg.resetP with
      | .doc => s.p ||| 0x20
      | .nmos => s.p ||| 0x24) ∧
    (resetBlock s).t ≠ 0xFF ∧ (resetBlock s).mem = s.mem ∧ (resetBlock s).cfg = s.cfg ∧
    (resetBlock s).bus = [.read 0xFFFC, .read 0xFFFD]

/-- The state right after Reset is what the Reset transition leaves, for one choice of its draw of T, on a block whose
memory lists nothing and whose P, PC and other registers were zero (log entries 3, 4 and 5 name these choices). -/
def Obligations.ResetStateComesFromReset : Prop :=
  ∃ (count : Fin 255) (s : State), s.mem = [] ∧ s.p = 0 ∧ resetTo count s = (State.reset).setBus (resetTo count s).bus ∧
    State.reset.a = 0 ∧ State.reset.x = 0 ∧ State.reset.y = 0 ∧ State.reset.sp = 0xFD ∧
    State.reset.flag .U = true ∧ State.reset.t ≠ 0xFF

/-- R248: an NMI taken first sets I, so an IRQ injected right after it is skipped. -/
def Obligations.NmiMasksTheIrqAfterIt : Prop :=
  ∀ s : State, irq (nmi s) = (nmi s).setBus [] ∧
    inject { nmi := true, irq := true } s = (inject { nmi := true } s).setBus []
end

