-- ==== Sys2Proof/Laws/Bytes.lean ====
section
/-! SUPPORT. The byte-order helpers: joining and splitting words, and their values as numbers. -/

namespace Sys2Proof

theorem joinBytes_toNat (hi lo : Byte) : (joinBytes hi lo).toNat = hi.toNat * 256 + lo.toNat := by
  have := hi.isLt
  have := lo.isLt
  simp only [joinBytes, BitVec.toNat_ofNat]
  omega

theorem loByte_toNat (w : Word) : (loByte w).toNat = w.toNat % 256 := rfl

theorem hiByte_toNat (w : Word) : (hiByte w).toNat = w.toNat / 256 := by
  have := w.isLt
  simp only [hiByte, BitVec.toNat_ofNat]
  omega

@[simp] theorem loByte_joinBytes (hi lo : Byte) : loByte (joinBytes hi lo) = lo := by
  apply BitVec.eq_of_toNat_eq
  have := lo.isLt
  rw [loByte_toNat, joinBytes_toNat]
  omega

@[simp] theorem hiByte_joinBytes (hi lo : Byte) : hiByte (joinBytes hi lo) = hi := by
  apply BitVec.eq_of_toNat_eq
  have := lo.isLt
  rw [hiByte_toNat, joinBytes_toNat]
  omega

@[simp] theorem joinBytes_hi_lo (w : Word) : joinBytes (hiByte w) (loByte w) = w := by
  apply BitVec.eq_of_toNat_eq
  rw [joinBytes_toNat, hiByte_toNat, loByte_toNat]
  omega

theorem joinBytes_inj {hi lo hi' lo' : Byte} : joinBytes hi lo = joinBytes hi' lo' ↔ hi = hi' ∧ lo = lo' := by
  constructor
  · intro h
    exact ⟨by simpa using congrArg hiByte h, by simpa using congrArg loByte h⟩
  · rintro ⟨rfl, rfl⟩; rfl

end Sys2Proof
end

