-- ==== Sys2Proof/Laws/State.lean ====
section
/-! SUPPORT. What each field reads after each update of one field, so that no proof unfolds a record update. -/

namespace Sys2Proof.Machine

variable (s : State)

@[simp] theorem setPc_pc (v : Word) : (s.setPc v).pc = v := rfl
@[simp] theorem setPc_a (v : Word) : (s.setPc v).a = s.a := rfl
@[simp] theorem setPc_x (v : Word) : (s.setPc v).x = s.x := rfl
@[simp] theorem setPc_y (v : Word) : (s.setPc v).y = s.y := rfl
@[simp] theorem setPc_sp (v : Word) : (s.setPc v).sp = s.sp := rfl
@[simp] theorem setPc_p (v : Word) : (s.setPc v).p = s.p := rfl
@[simp] theorem setPc_t (v : Word) : (s.setPc v).t = s.t := rfl
@[simp] theorem setPc_mem (v : Word) : (s.setPc v).mem = s.mem := rfl
@[simp] theorem setPc_cfg (v : Word) : (s.setPc v).cfg = s.cfg := rfl
@[simp] theorem setPc_draws (v : Word) : (s.setPc v).draws = s.draws := rfl
@[simp] theorem setPc_bus (v : Word) : (s.setPc v).bus = s.bus := rfl

@[simp] theorem setA_pc (v : Byte) : (s.setA v).pc = s.pc := rfl
@[simp] theorem setA_a (v : Byte) : (s.setA v).a = v := rfl
@[simp] theorem setA_x (v : Byte) : (s.setA v).x = s.x := rfl
@[simp] theorem setA_y (v : Byte) : (s.setA v).y = s.y := rfl
@[simp] theorem setA_sp (v : Byte) : (s.setA v).sp = s.sp := rfl
@[simp] theorem setA_p (v : Byte) : (s.setA v).p = s.p := rfl
@[simp] theorem setA_t (v : Byte) : (s.setA v).t = s.t := rfl
@[simp] theorem setA_mem (v : Byte) : (s.setA v).mem = s.mem := rfl
@[simp] theorem setA_cfg (v : Byte) : (s.setA v).cfg = s.cfg := rfl
@[simp] theorem setA_draws (v : Byte) : (s.setA v).draws = s.draws := rfl
@[simp] theorem setA_bus (v : Byte) : (s.setA v).bus = s.bus := rfl

@[simp] theorem setX_pc (v : Byte) : (s.setX v).pc = s.pc := rfl
@[simp] theorem setX_a (v : Byte) : (s.setX v).a = s.a := rfl
@[simp] theorem setX_x (v : Byte) : (s.setX v).x = v := rfl
@[simp] theorem setX_y (v : Byte) : (s.setX v).y = s.y := rfl
@[simp] theorem setX_sp (v : Byte) : (s.setX v).sp = s.sp := rfl
@[simp] theorem setX_p (v : Byte) : (s.setX v).p = s.p := rfl
@[simp] theorem setX_t (v : Byte) : (s.setX v).t = s.t := rfl
@[simp] theorem setX_mem (v : Byte) : (s.setX v).mem = s.mem := rfl
@[simp] theorem setX_cfg (v : Byte) : (s.setX v).cfg = s.cfg := rfl
@[simp] theorem setX_draws (v : Byte) : (s.setX v).draws = s.draws := rfl
@[simp] theorem setX_bus (v : Byte) : (s.setX v).bus = s.bus := rfl

@[simp] theorem setY_pc (v : Byte) : (s.setY v).pc = s.pc := rfl
@[simp] theorem setY_a (v : Byte) : (s.setY v).a = s.a := rfl
@[simp] theorem setY_x (v : Byte) : (s.setY v).x = s.x := rfl
@[simp] theorem setY_y (v : Byte) : (s.setY v).y = v := rfl
@[simp] theorem setY_sp (v : Byte) : (s.setY v).sp = s.sp := rfl
@[simp] theorem setY_p (v : Byte) : (s.setY v).p = s.p := rfl
@[simp] theorem setY_t (v : Byte) : (s.setY v).t = s.t := rfl
@[simp] theorem setY_mem (v : Byte) : (s.setY v).mem = s.mem := rfl
@[simp] theorem setY_cfg (v : Byte) : (s.setY v).cfg = s.cfg := rfl
@[simp] theorem setY_draws (v : Byte) : (s.setY v).draws = s.draws := rfl
@[simp] theorem setY_bus (v : Byte) : (s.setY v).bus = s.bus := rfl

@[simp] theorem setSp_pc (v : Byte) : (s.setSp v).pc = s.pc := rfl
@[simp] theorem setSp_a (v : Byte) : (s.setSp v).a = s.a := rfl
@[simp] theorem setSp_x (v : Byte) : (s.setSp v).x = s.x := rfl
@[simp] theorem setSp_y (v : Byte) : (s.setSp v).y = s.y := rfl
@[simp] theorem setSp_sp (v : Byte) : (s.setSp v).sp = v := rfl
@[simp] theorem setSp_p (v : Byte) : (s.setSp v).p = s.p := rfl
@[simp] theorem setSp_t (v : Byte) : (s.setSp v).t = s.t := rfl
@[simp] theorem setSp_mem (v : Byte) : (s.setSp v).mem = s.mem := rfl
@[simp] theorem setSp_cfg (v : Byte) : (s.setSp v).cfg = s.cfg := rfl
@[simp] theorem setSp_draws (v : Byte) : (s.setSp v).draws = s.draws := rfl
@[simp] theorem setSp_bus (v : Byte) : (s.setSp v).bus = s.bus := rfl

@[simp] theorem setP_pc (v : Byte) : (s.setP v).pc = s.pc := rfl
@[simp] theorem setP_a (v : Byte) : (s.setP v).a = s.a := rfl
@[simp] theorem setP_x (v : Byte) : (s.setP v).x = s.x := rfl
@[simp] theorem setP_y (v : Byte) : (s.setP v).y = s.y := rfl
@[simp] theorem setP_sp (v : Byte) : (s.setP v).sp = s.sp := rfl
@[simp] theorem setP_p (v : Byte) : (s.setP v).p = v := rfl
@[simp] theorem setP_t (v : Byte) : (s.setP v).t = s.t := rfl
@[simp] theorem setP_mem (v : Byte) : (s.setP v).mem = s.mem := rfl
@[simp] theorem setP_cfg (v : Byte) : (s.setP v).cfg = s.cfg := rfl
@[simp] theorem setP_draws (v : Byte) : (s.setP v).draws = s.draws := rfl
@[simp] theorem setP_bus (v : Byte) : (s.setP v).bus = s.bus := rfl

@[simp] theorem setT_pc (v : Byte) : (s.setT v).pc = s.pc := rfl
@[simp] theorem setT_a (v : Byte) : (s.setT v).a = s.a := rfl
@[simp] theorem setT_x (v : Byte) : (s.setT v).x = s.x := rfl
@[simp] theorem setT_y (v : Byte) : (s.setT v).y = s.y := rfl
@[simp] theorem setT_sp (v : Byte) : (s.setT v).sp = s.sp := rfl
@[simp] theorem setT_p (v : Byte) : (s.setT v).p = s.p := rfl
@[simp] theorem setT_t (v : Byte) : (s.setT v).t = v := rfl
@[simp] theorem setT_mem (v : Byte) : (s.setT v).mem = s.mem := rfl
@[simp] theorem setT_cfg (v : Byte) : (s.setT v).cfg = s.cfg := rfl
@[simp] theorem setT_draws (v : Byte) : (s.setT v).draws = s.draws := rfl
@[simp] theorem setT_bus (v : Byte) : (s.setT v).bus = s.bus := rfl

@[simp] theorem setMem_pc (v : Memory) : (s.setMem v).pc = s.pc := rfl
@[simp] theorem setMem_a (v : Memory) : (s.setMem v).a = s.a := rfl
@[simp] theorem setMem_x (v : Memory) : (s.setMem v).x = s.x := rfl
@[simp] theorem setMem_y (v : Memory) : (s.setMem v).y = s.y := rfl
@[simp] theorem setMem_sp (v : Memory) : (s.setMem v).sp = s.sp := rfl
@[simp] theorem setMem_p (v : Memory) : (s.setMem v).p = s.p := rfl
@[simp] theorem setMem_t (v : Memory) : (s.setMem v).t = s.t := rfl
@[simp] theorem setMem_mem (v : Memory) : (s.setMem v).mem = v := rfl
@[simp] theorem setMem_cfg (v : Memory) : (s.setMem v).cfg = s.cfg := rfl
@[simp] theorem setMem_draws (v : Memory) : (s.setMem v).draws = s.draws := rfl
@[simp] theorem setMem_bus (v : Memory) : (s.setMem v).bus = s.bus := rfl

@[simp] theorem setDraws_pc (v : Nat) : (s.setDraws v).pc = s.pc := rfl
@[simp] theorem setDraws_a (v : Nat) : (s.setDraws v).a = s.a := rfl
@[simp] theorem setDraws_x (v : Nat) : (s.setDraws v).x = s.x := rfl
@[simp] theorem setDraws_y (v : Nat) : (s.setDraws v).y = s.y := rfl
@[simp] theorem setDraws_sp (v : Nat) : (s.setDraws v).sp = s.sp := rfl
@[simp] theorem setDraws_p (v : Nat) : (s.setDraws v).p = s.p := rfl
@[simp] theorem setDraws_t (v : Nat) : (s.setDraws v).t = s.t := rfl
@[simp] theorem setDraws_mem (v : Nat) : (s.setDraws v).mem = s.mem := rfl
@[simp] theorem setDraws_cfg (v : Nat) : (s.setDraws v).cfg = s.cfg := rfl
@[simp] theorem setDraws_draws (v : Nat) : (s.setDraws v).draws = v := rfl
@[simp] theorem setDraws_bus (v : Nat) : (s.setDraws v).bus = s.bus := rfl

@[simp] theorem setBus_pc (v : List Access) : (s.setBus v).pc = s.pc := rfl
@[simp] theorem setBus_a (v : List Access) : (s.setBus v).a = s.a := rfl
@[simp] theorem setBus_x (v : List Access) : (s.setBus v).x = s.x := rfl
@[simp] theorem setBus_y (v : List Access) : (s.setBus v).y = s.y := rfl
@[simp] theorem setBus_sp (v : List Access) : (s.setBus v).sp = s.sp := rfl
@[simp] theorem setBus_p (v : List Access) : (s.setBus v).p = s.p := rfl
@[simp] theorem setBus_t (v : List Access) : (s.setBus v).t = s.t := rfl
@[simp] theorem setBus_mem (v : List Access) : (s.setBus v).mem = s.mem := rfl
@[simp] theorem setBus_cfg (v : List Access) : (s.setBus v).cfg = s.cfg := rfl
@[simp] theorem setBus_draws (v : List Access) : (s.setBus v).draws = s.draws := rfl
@[simp] theorem setBus_bus (v : List Access) : (s.setBus v).bus = v := rfl

/-! Reading memory, a flag of P, or the jam after an update. -/

@[simp] theorem setPc_peek (v : Word) (a : Word) : (s.setPc v).peek a = s.peek a := rfl
@[simp] theorem setPc_flag (v : Word) (f : Flag) : (s.setPc v).flag f = s.flag f := rfl
@[simp] theorem setPc_jammed (v : Word) : (s.setPc v).jammed = s.jammed := rfl
@[simp] theorem setA_peek (v : Byte) (a : Word) : (s.setA v).peek a = s.peek a := rfl
@[simp] theorem setA_flag (v : Byte) (f : Flag) : (s.setA v).flag f = s.flag f := rfl
@[simp] theorem setA_jammed (v : Byte) : (s.setA v).jammed = s.jammed := rfl
@[simp] theorem setX_peek (v : Byte) (a : Word) : (s.setX v).peek a = s.peek a := rfl
@[simp] theorem setX_flag (v : Byte) (f : Flag) : (s.setX v).flag f = s.flag f := rfl
@[simp] theorem setX_jammed (v : Byte) : (s.setX v).jammed = s.jammed := rfl
@[simp] theorem setY_peek (v : Byte) (a : Word) : (s.setY v).peek a = s.peek a := rfl
@[simp] theorem setY_flag (v : Byte) (f : Flag) : (s.setY v).flag f = s.flag f := rfl
@[simp] theorem setY_jammed (v : Byte) : (s.setY v).jammed = s.jammed := rfl
@[simp] theorem setSp_peek (v : Byte) (a : Word) : (s.setSp v).peek a = s.peek a := rfl
@[simp] theorem setSp_flag (v : Byte) (f : Flag) : (s.setSp v).flag f = s.flag f := rfl
@[simp] theorem setSp_jammed (v : Byte) : (s.setSp v).jammed = s.jammed := rfl
@[simp] theorem setP_peek (v : Byte) (a : Word) : (s.setP v).peek a = s.peek a := rfl
@[simp] theorem setP_jammed (v : Byte) : (s.setP v).jammed = s.jammed := rfl
@[simp] theorem setT_peek (v : Byte) (a : Word) : (s.setT v).peek a = s.peek a := rfl
@[simp] theorem setT_flag (v : Byte) (f : Flag) : (s.setT v).flag f = s.flag f := rfl
@[simp] theorem setMem_flag (v : Memory) (f : Flag) : (s.setMem v).flag f = s.flag f := rfl
@[simp] theorem setMem_jammed (v : Memory) : (s.setMem v).jammed = s.jammed := rfl
@[simp] theorem setDraws_peek (v : Nat) (a : Word) : (s.setDraws v).peek a = s.peek a := rfl
@[simp] theorem setDraws_flag (v : Nat) (f : Flag) : (s.setDraws v).flag f = s.flag f := rfl
@[simp] theorem setDraws_jammed (v : Nat) : (s.setDraws v).jammed = s.jammed := rfl
@[simp] theorem setBus_peek (v : List Access) (a : Word) : (s.setBus v).peek a = s.peek a := rfl
@[simp] theorem setBus_flag (v : List Access) (f : Flag) : (s.setBus v).flag f = s.flag f := rfl
@[simp] theorem setBus_jammed (v : List Access) : (s.setBus v).jammed = s.jammed := rfl

theorem setP_flag (v : Byte) (f : Flag) : (s.setP v).flag f = flagOf v f := rfl

theorem setMem_peek (m : Memory) (a : Word) : (s.setMem m).peek a = m.read a.toNat := rfl

/-- Two states with equal fields are equal. -/
theorem State.ext_fields {s t : State} (hpc : s.pc = t.pc) (ha : s.a = t.a) (hx : s.x = t.x) (hy : s.y = t.y)
    (hsp : s.sp = t.sp) (hp : s.p = t.p) (ht : s.t = t.t) (hm : s.mem = t.mem) (hc : s.cfg = t.cfg)
    (hd : s.draws = t.draws) (hb : s.bus = t.bus) : s = t := by
  cases s; cases t; simp_all

end Sys2Proof.Machine
end

