-- ==== Sys2Proof/Laws/Flags.lean ====
section
/-! SUPPORT. The bits of P: what a flag reads after another is written, and the flags each shared computation leaves. -/

namespace Sys2Proof.Machine

/-- A flag after one flag is written. -/
@[simp] theorem flagOf_withFlag (p : Byte) (f g : Flag) (b : Bool) :
    flagOf (withFlag p f b) g = if g = f then b else flagOf p g := by
  cases f <;> cases g <;> cases b <;> simp [flagOf, withFlag, Flag.mask, Flag.pos]

/-- A status byte is its eight flags. -/
theorem flagOf_ext {p q : Byte} (h : ∀ f, flagOf p f = flagOf q f) : p = q := by
  apply BitVec.eq_of_getLsbD_eq
  intro i hi
  match i, hi with
  | 0, _ => exact h .C
  | 1, _ => exact h .Z
  | 2, _ => exact h .I
  | 3, _ => exact h .D
  | 4, _ => exact h .B
  | 5, _ => exact h .U
  | 6, _ => exact h .V
  | 7, _ => exact h .N

theorem isZero_eq (v : Byte) : isZero v = decide (v.toNat = 0) := by
  rw [Bool.eq_iff_iff]
  simp only [isZero, beq_iff_eq, decide_eq_true_eq]
  exact ⟨fun h => by rw [h]; rfl, fun h => BitVec.eq_of_toNat_eq h⟩

/-- The flags after `SetNZ` (R30). -/
@[simp] theorem flagOf_withNZ (p v : Byte) (g : Flag) :
    flagOf (withNZ p v) g = if g = .Z then isZero v else if g = .N then negative v else flagOf p g := by
  simp [withNZ]

/-- The flags after ADC or SBC. -/
@[simp] theorem flagOf_withAluFlags (p : Byte) (r : AluResult) (g : Flag) :
    flagOf (withAluFlags p r) g =
      if g = .C then r.c else if g = .Z then r.z else if g = .V then r.v else if g = .N then r.n else flagOf p g := by
  simp [withAluFlags]

/-- The flags after a compare. -/
@[simp] theorem flagOf_withCompare (p r m : Byte) (g : Flag) :
    flagOf (withCompare p r m) g =
      if g = .Z then isZero (r - m) else if g = .N then negative (r - m)
      else if g = .C then decide (m.toNat ≤ r.toNat) else flagOf p g := by
  simp [withCompare]

/-- The flags after a shift or rotate. -/
@[simp] theorem flagOf_withShift (p : Byte) (r : ShiftResult) (g : Flag) :
    flagOf (withShift p r) g =
      if g = .Z then isZero r.value else if g = .N then negative r.value else if g = .C then r.c else flagOf p g := by
  simp [withShift]

/-- The flags after BIT. -/
@[simp] theorem flagOf_withBitTest (p a m : Byte) (g : Flag) :
    flagOf (withBitTest p a m) g =
      if g = .V then m.getLsbD 6 else if g = .N then m.getLsbD 7 else if g = .Z then isZero (a &&& m)
      else flagOf p g := by
  simp [withBitTest]

/-- The flags of the copies of P on the stack (R127, R204, R244). -/
@[simp] theorem flagOf_pushedByInstruction (p : Byte) (g : Flag) :
    flagOf (pushedByInstruction p) g = if g = .B ∨ g = .U then true else flagOf p g := by
  cases g <;> simp [flagOf, pushedByInstruction, Flag.pos]

@[simp] theorem flagOf_pushedByInterrupt (p : Byte) (g : Flag) :
    flagOf (pushedByInterrupt p) g = if g = .U then true else if g = .B then false else flagOf p g := by
  cases g <;> simp [flagOf, pushedByInterrupt, Flag.pos]

/-- The flags PLP and RTI load (R129). -/
@[simp] theorem flagOf_pullP (c : PullP) (v : Byte) (g : Flag) :
    flagOf (pullP c v) g =
      if c = .verbatim then flagOf v g else if g = .U then true else if g = .B then false else flagOf v g := by
  cases c <;> cases g <;> simp [flagOf, pullP, Flag.pos]

/-! The register P after each update of its flags. -/

@[simp] theorem setFlag_flag (s : State) (f g : Flag) (b : Bool) :
    (s.setFlag f b).flag g = if g = f then b else s.flag g := flagOf_withFlag s.p f g b

@[simp] theorem setNZ_flag (s : State) (v : Byte) (g : Flag) :
    (s.setNZ v).flag g = if g = .Z then isZero v else if g = .N then negative v else s.flag g := flagOf_withNZ s.p v g

@[simp] theorem setAlu_flag (s : State) (r : AluResult) (g : Flag) :
    (s.setAlu r).flag g =
      if g = .C then r.c else if g = .Z then r.z else if g = .V then r.v else if g = .N then r.n else s.flag g :=
  flagOf_withAluFlags s.p r g

@[simp] theorem setCompare_flag (s : State) (r m : Byte) (g : Flag) :
    (s.setCompare r m).flag g =
      if g = .Z then isZero (r - m) else if g = .N then negative (r - m)
      else if g = .C then decide (m.toNat ≤ r.toNat) else s.flag g := flagOf_withCompare s.p r m g

@[simp] theorem setShift_flag (s : State) (r : ShiftResult) (g : Flag) :
    (s.setShift r).flag g =
      if g = .Z then isZero r.value else if g = .N then negative r.value else if g = .C then r.c else s.flag g :=
  flagOf_withShift s.p r g

@[simp] theorem setBitTest_flag (s : State) (m : Byte) (g : Flag) :
    (s.setBitTest m).flag g =
      if g = .V then m.getLsbD 6 else if g = .N then m.getLsbD 7 else if g = .Z then isZero (s.a &&& m)
      else s.flag g := flagOf_withBitTest s.p s.a m g

/-! Every other field after an update of flags. -/

@[simp] theorem setFlag_pc (s : State) (f : Flag) (b : Bool) : (s.setFlag f b).pc = s.pc := rfl
@[simp] theorem setFlag_a (s : State) (f : Flag) (b : Bool) : (s.setFlag f b).a = s.a := rfl
@[simp] theorem setFlag_x (s : State) (f : Flag) (b : Bool) : (s.setFlag f b).x = s.x := rfl
@[simp] theorem setFlag_y (s : State) (f : Flag) (b : Bool) : (s.setFlag f b).y = s.y := rfl
@[simp] theorem setFlag_sp (s : State) (f : Flag) (b : Bool) : (s.setFlag f b).sp = s.sp := rfl
@[simp] theorem setFlag_t (s : State) (f : Flag) (b : Bool) : (s.setFlag f b).t = s.t := rfl
@[simp] theorem setFlag_mem (s : State) (f : Flag) (b : Bool) : (s.setFlag f b).mem = s.mem := rfl
@[simp] theorem setFlag_cfg (s : State) (f : Flag) (b : Bool) : (s.setFlag f b).cfg = s.cfg := rfl
@[simp] theorem setFlag_draws (s : State) (f : Flag) (b : Bool) : (s.setFlag f b).draws = s.draws := rfl
@[simp] theorem setFlag_bus (s : State) (f : Flag) (b : Bool) : (s.setFlag f b).bus = s.bus := rfl
@[simp] theorem setFlag_peek (s : State) (f : Flag) (b : Bool) (ad : Word) : (s.setFlag f b).peek ad = s.peek ad := rfl

@[simp] theorem setNZ_pc (s : State) (v : Byte) : (s.setNZ v).pc = s.pc := rfl
@[simp] theorem setNZ_a (s : State) (v : Byte) : (s.setNZ v).a = s.a := rfl
@[simp] theorem setNZ_x (s : State) (v : Byte) : (s.setNZ v).x = s.x := rfl
@[simp] theorem setNZ_y (s : State) (v : Byte) : (s.setNZ v).y = s.y := rfl
@[simp] theorem setNZ_sp (s : State) (v : Byte) : (s.setNZ v).sp = s.sp := rfl
@[simp] theorem setNZ_t (s : State) (v : Byte) : (s.setNZ v).t = s.t := rfl
@[simp] theorem setNZ_mem (s : State) (v : Byte) : (s.setNZ v).mem = s.mem := rfl
@[simp] theorem setNZ_cfg (s : State) (v : Byte) : (s.setNZ v).cfg = s.cfg := rfl
@[simp] theorem setNZ_draws (s : State) (v : Byte) : (s.setNZ v).draws = s.draws := rfl
@[simp] theorem setNZ_bus (s : State) (v : Byte) : (s.setNZ v).bus = s.bus := rfl
@[simp] theorem setNZ_peek (s : State) (v : Byte) (ad : Word) : (s.setNZ v).peek ad = s.peek ad := rfl

@[simp] theorem setCompare_pc (s : State) (r m : Byte) : (s.setCompare r m).pc = s.pc := rfl
@[simp] theorem setCompare_a (s : State) (r m : Byte) : (s.setCompare r m).a = s.a := rfl
@[simp] theorem setCompare_x (s : State) (r m : Byte) : (s.setCompare r m).x = s.x := rfl
@[simp] theorem setCompare_y (s : State) (r m : Byte) : (s.setCompare r m).y = s.y := rfl
@[simp] theorem setCompare_sp (s : State) (r m : Byte) : (s.setCompare r m).sp = s.sp := rfl
@[simp] theorem setCompare_t (s : State) (r m : Byte) : (s.setCompare r m).t = s.t := rfl
@[simp] theorem setCompare_mem (s : State) (r m : Byte) : (s.setCompare r m).mem = s.mem := rfl
@[simp] theorem setCompare_cfg (s : State) (r m : Byte) : (s.setCompare r m).cfg = s.cfg := rfl
@[simp] theorem setCompare_draws (s : State) (r m : Byte) : (s.setCompare r m).draws = s.draws := rfl
@[simp] theorem setCompare_bus (s : State) (r m : Byte) : (s.setCompare r m).bus = s.bus := rfl
@[simp] theorem setCompare_peek (s : State) (r m : Byte) (ad : Word) : (s.setCompare r m).peek ad = s.peek ad := rfl

@[simp] theorem setShift_pc (s : State) (r : ShiftResult) : (s.setShift r).pc = s.pc := rfl
@[simp] theorem setShift_a (s : State) (r : ShiftResult) : (s.setShift r).a = s.a := rfl
@[simp] theorem setShift_x (s : State) (r : ShiftResult) : (s.setShift r).x = s.x := rfl
@[simp] theorem setShift_y (s : State) (r : ShiftResult) : (s.setShift r).y = s.y := rfl
@[simp] theorem setShift_sp (s : State) (r : ShiftResult) : (s.setShift r).sp = s.sp := rfl
@[simp] theorem setShift_t (s : State) (r : ShiftResult) : (s.setShift r).t = s.t := rfl
@[simp] theorem setShift_mem (s : State) (r : ShiftResult) : (s.setShift r).mem = s.mem := rfl
@[simp] theorem setShift_cfg (s : State) (r : ShiftResult) : (s.setShift r).cfg = s.cfg := rfl
@[simp] theorem setShift_draws (s : State) (r : ShiftResult) : (s.setShift r).draws = s.draws := rfl
@[simp] theorem setShift_bus (s : State) (r : ShiftResult) : (s.setShift r).bus = s.bus := rfl
@[simp] theorem setShift_peek (s : State) (r : ShiftResult) (ad : Word) : (s.setShift r).peek ad = s.peek ad := rfl

@[simp] theorem setBitTest_pc (s : State) (m : Byte) : (s.setBitTest m).pc = s.pc := rfl
@[simp] theorem setBitTest_a (s : State) (m : Byte) : (s.setBitTest m).a = s.a := rfl
@[simp] theorem setBitTest_x (s : State) (m : Byte) : (s.setBitTest m).x = s.x := rfl
@[simp] theorem setBitTest_y (s : State) (m : Byte) : (s.setBitTest m).y = s.y := rfl
@[simp] theorem setBitTest_sp (s : State) (m : Byte) : (s.setBitTest m).sp = s.sp := rfl
@[simp] theorem setBitTest_t (s : State) (m : Byte) : (s.setBitTest m).t = s.t := rfl
@[simp] theorem setBitTest_mem (s : State) (m : Byte) : (s.setBitTest m).mem = s.mem := rfl
@[simp] theorem setBitTest_cfg (s : State) (m : Byte) : (s.setBitTest m).cfg = s.cfg := rfl
@[simp] theorem setBitTest_draws (s : State) (m : Byte) : (s.setBitTest m).draws = s.draws := rfl
@[simp] theorem setBitTest_bus (s : State) (m : Byte) : (s.setBitTest m).bus = s.bus := rfl
@[simp] theorem setBitTest_peek (s : State) (m : Byte) (ad : Word) : (s.setBitTest m).peek ad = s.peek ad := rfl

@[simp] theorem setAlu_pc (s : State) (r : AluResult) : (s.setAlu r).pc = s.pc := rfl
@[simp] theorem setAlu_a (s : State) (r : AluResult) : (s.setAlu r).a = r.value := rfl
@[simp] theorem setAlu_x (s : State) (r : AluResult) : (s.setAlu r).x = s.x := rfl
@[simp] theorem setAlu_y (s : State) (r : AluResult) : (s.setAlu r).y = s.y := rfl
@[simp] theorem setAlu_sp (s : State) (r : AluResult) : (s.setAlu r).sp = s.sp := rfl
@[simp] theorem setAlu_t (s : State) (r : AluResult) : (s.setAlu r).t = s.t := rfl
@[simp] theorem setAlu_mem (s : State) (r : AluResult) : (s.setAlu r).mem = s.mem := rfl
@[simp] theorem setAlu_cfg (s : State) (r : AluResult) : (s.setAlu r).cfg = s.cfg := rfl
@[simp] theorem setAlu_draws (s : State) (r : AluResult) : (s.setAlu r).draws = s.draws := rfl
@[simp] theorem setAlu_bus (s : State) (r : AluResult) : (s.setAlu r).bus = s.bus := rfl
@[simp] theorem setAlu_peek (s : State) (r : AluResult) (ad : Word) : (s.setAlu r).peek ad = s.peek ad := rfl

end Sys2Proof.Machine
end

