-- ==== Sys2Proof/Laws/Forms.lean ====
section
/-! SUPPORT. How a rule's list of forms meets the encoder and the timing table: a form in the list has the opcode of
R83's second table, and that opcode's count is the form's (R82). -/

namespace Sys2Proof.Machine

/-- The opcode of a mode in a row of R83's second table. -/
def rowOpcode (r : OpcodeRow) : Mode → Option Byte
  | .imm  => r.imm
  | .zp   => r.zp
  | .zpX  => r.zpX
  | .zpY  => r.zpY
  | .abs  => r.abs
  | .absX => r.absX
  | .absY => r.absY
  | .indX => r.indX
  | .indY => r.indY
  | .acc  => r.acc
  | .impl | .ind | .rel | .invalid => none

theorem row_address (r : OpcodeRow) (m : Address) : r.address m = rowOpcode r m.mode := by
  cases m <;> rfl

theorem row_source (r : OpcodeRow) (o : Source) : r.source o = rowOpcode r o.mode := by
  cases o with
  | imm v => rfl
  | mem m => exact row_address r m

theorem row_target (r : OpcodeRow) (t : Target) : r.target t = rowOpcode r t.mode := by
  cases t with
  | acc => rfl
  | mem m => exact row_address r m

/-- Whether each form of a list has the row's opcode for its mode, and each opcode's count is the form's. -/
def formsMatch (forms : List Form) (r : OpcodeRow) : Bool :=
  forms.all fun f => rowOpcode r f.mode == some f.opcode &&
    [true, false].all fun c => (cycles f.opcode c).toNat == f.base + (if f.penalty && c then 1 else 0)

/-- What `formsMatch` gives for one form. -/
theorem formsMatch_form {forms : List Form} {r : OpcodeRow} (h : formsMatch forms r = true) {f : Form} (hf : f ∈ forms) :
    rowOpcode r f.mode = some f.opcode ∧
      ∀ c, (cycles f.opcode c).toNat = f.base + (if f.penalty && c then 1 else 0) := by
  have hall := List.all_eq_true.mp h f hf
  simp only [Bool.and_eq_true, beq_iff_eq, List.all_cons, List.all_nil, Bool.and_true] at hall
  exact ⟨hall.1, fun c => by cases c <;> simp [hall.2]⟩

end Sys2Proof.Machine
end

