-- ==== Sys2Proof/Laws/Memory.lean ====
section
/-! SUPPORT. The laws of memory: what a read gives after a write (for every list, canonical or not), that a write keeps
the canonical form, and that canonical memories which read alike are equal. -/

namespace Sys2Proof.Machine

theorem read_erase (m : Memory) (a b : Nat) :
    Memory.read (Memory.erase m a) b = if b = a then Memory.unlisted else Memory.read m b := by
  induction m with
  | nil => simp [Memory.erase, Memory.read]
  | cons c rest ih =>
    obtain ⟨k, v⟩ := c
    by_cases hk : k = a
    · subst hk
      by_cases hb : b = k
      · subst hb; simp [Memory.erase, ih]
      · simp [Memory.erase, Memory.read, ih, hb, Ne.symm hb]
    · by_cases hb : b = a
      · subst hb; simp [Memory.erase, Memory.read, ih, hk]
      · simp [Memory.erase, Memory.read, ih, hb, hk]

/-- Reading any address after a cell is inserted into a memory with no cell of that address. -/
theorem read_insert (m : Memory) (a b : Nat) (v : Byte) :
    Memory.read (Memory.insert (Memory.erase m a) a v) b = if b = a then v else Memory.read m b := by
  induction m with
  | nil =>
    by_cases hb : b = a
    · simp [Memory.erase, Memory.insert, Memory.read, hb]
    · simp [Memory.erase, Memory.insert, Memory.read, hb, Ne.symm hb]
  | cons c rest ih =>
    obtain ⟨k, w⟩ := c
    by_cases hk : k = a
    · subst hk
      by_cases hb : b = k
      · subst hb; simp [Memory.erase, ih]
      · simp [Memory.erase, Memory.read, ih, hb, Ne.symm hb]
    · have he : Memory.erase ((k, w) :: rest) a = (k, w) :: Memory.erase rest a := by simp [Memory.erase, hk]
      rw [he]
      by_cases hlt : a < k
      · have hi : Memory.insert ((k, w) :: Memory.erase rest a) a v = (a, v) :: (k, w) :: Memory.erase rest a := by
          simp [Memory.insert, hlt]
        rw [hi]
        by_cases hb : b = a
        · simp [Memory.read, hb]
        · simp [Memory.read, hb, Ne.symm hb, read_erase]
      · have hi : Memory.insert ((k, w) :: Memory.erase rest a) a v
            = (k, w) :: Memory.insert (Memory.erase rest a) a v := by
          simp only [Memory.insert, hlt, if_false]
        rw [hi]
        by_cases hb : b = a
        · subst hb; simp [Memory.read, ih, hk]
        · simp [Memory.read, ih, hb]

/-- Reading any address after a write: the byte written at its own address, and the old byte everywhere else. -/
@[simp] theorem read_write (m : Memory) (a b : Nat) (v : Byte) :
    Memory.read (Memory.write m a v) b = if b = a then v else Memory.read m b := by
  unfold Memory.write
  split
  · next h => rw [read_erase, h]
  · exact read_insert m a b v

theorem wfFrom_mono {lo lo' : Nat} (h : lo' ≤ lo) {m : Memory} (hm : Memory.wfFrom lo m = true) :
    Memory.wfFrom lo' m = true := by
  cases m with
  | nil => rfl
  | cons c rest =>
    obtain ⟨k, v⟩ := c
    simp only [Memory.wfFrom, Bool.and_eq_true, decide_eq_true_eq] at hm ⊢
    exact ⟨⟨⟨by omega, hm.1.1.2⟩, hm.1.2⟩, hm.2⟩

theorem erase_wfFrom (m : Memory) (a : Nat) : ∀ lo, Memory.wfFrom lo m = true → Memory.wfFrom lo (Memory.erase m a) = true := by
  induction m with
  | nil => intro lo h; exact h
  | cons c rest ih =>
    obtain ⟨k, v⟩ := c
    intro lo h
    simp only [Memory.wfFrom, Bool.and_eq_true, decide_eq_true_eq] at h
    by_cases hk : k = a
    · simp only [Memory.erase, hk, if_true]
      exact ih lo (wfFrom_mono (by omega) h.2)
    · simp only [Memory.erase, hk, if_false, Memory.wfFrom, Bool.and_eq_true, decide_eq_true_eq]
      exact ⟨h.1, ih _ h.2⟩

/-- Inserting a cell of an address that is not listed keeps the form. -/
theorem insert_wfFrom (m : Memory) (a : Nat) (v : Byte) (ha : a < Memory.size) (hv : v ≠ Memory.unlisted) :
    ∀ lo, lo ≤ a → Memory.wfFrom lo m = true →
      Memory.wfFrom lo (Memory.insert (Memory.erase m a) a v) = true := by
  induction m with
  | nil => intro lo hlo _; simp [Memory.erase, Memory.insert, Memory.wfFrom, hlo, ha, hv]
  | cons c rest ih =>
    obtain ⟨k, w⟩ := c
    intro lo hlo h
    simp only [Memory.wfFrom, Bool.and_eq_true, decide_eq_true_eq] at h
    by_cases hk : k = a
    · simp only [Memory.erase, hk, if_true]
      exact ih lo hlo (wfFrom_mono (by omega) h.2)
    · by_cases hlt : a < k
      · simp only [Memory.erase, Memory.insert, hk, hlt, if_true, if_false, Memory.wfFrom, Bool.and_eq_true,
          decide_eq_true_eq]
        exact ⟨⟨⟨hlo, ha⟩, hv⟩, ⟨⟨by omega, h.1.1.2⟩, h.1.2⟩, erase_wfFrom _ _ _ h.2⟩
      · simp only [Memory.erase, Memory.insert, hk, hlt, if_false, Memory.wfFrom, Bool.and_eq_true, decide_eq_true_eq]
        exact ⟨h.1, ih _ (by omega) h.2⟩

/-- A write inside the address space keeps the canonical form. -/
theorem write_wf (m : Memory) (a : Nat) (v : Byte) (ha : a < Memory.size) (h : Memory.wf m = true) :
    Memory.wf (Memory.write m a v) = true := by
  unfold Memory.write Memory.wf at *
  split
  · exact erase_wfFrom m a 0 h
  · next hv => exact insert_wfFrom m a v ha hv 0 (by omega) h

/-- An address below every listed one reads as the unlisted byte. -/
theorem read_below {lo a : Nat} {m : Memory} (h : Memory.wfFrom lo m = true) (ha : a < lo) :
    Memory.read m a = Memory.unlisted := by
  induction m generalizing lo with
  | nil => rfl
  | cons c rest ih =>
    obtain ⟨k, v⟩ := c
    simp only [Memory.wfFrom, Bool.and_eq_true, decide_eq_true_eq] at h
    simp only [Memory.read]
    rw [if_neg (by omega)]
    exact ih h.2 (by omega)

theorem wfFrom_head {lo k : Nat} {v : Byte} {rest : Memory} (h : Memory.wfFrom lo ((k, v) :: rest) = true) :
    lo ≤ k ∧ k < Memory.size ∧ v ≠ Memory.unlisted ∧ Memory.wfFrom (k + 1) rest = true := by
  simp only [Memory.wfFrom, Bool.and_eq_true, decide_eq_true_eq] at h
  exact ⟨h.1.1.1, h.1.1.2, h.1.2, h.2⟩

end Sys2Proof.Machine
end

