-- ==== Sys2Proof/Laws/Ops.lean ====
section
/-! SUPPORT. One lemma per shared operation that says all it does to a state: the callbacks, the stack, interrupt entry
and return, the end of an instruction, and fetch. -/

namespace Sys2Proof.Machine

/-! ### Callbacks -/

@[simp] theorem memRead_value (a : Word) (s : State) : (memRead a s).1 = s.peek a := rfl

@[simp] theorem memRead_state (a : Word) (s : State) : (memRead a s).2 = s.setBus (s.bus ++ [.read a]) := rfl

theorem memWrite_eq (a : Word) (v : Byte) (s : State) :
    memWrite a v s = (s.setMem (s.mem.write a.toNat v)).setBus (s.bus ++ [.write a v]) := rfl

@[simp] theorem memWrite_pc (a : Word) (v : Byte) (s : State) : (memWrite a v s).pc = s.pc := rfl
@[simp] theorem memWrite_a (a : Word) (v : Byte) (s : State) : (memWrite a v s).a = s.a := rfl
@[simp] theorem memWrite_x (a : Word) (v : Byte) (s : State) : (memWrite a v s).x = s.x := rfl
@[simp] theorem memWrite_y (a : Word) (v : Byte) (s : State) : (memWrite a v s).y = s.y := rfl
@[simp] theorem memWrite_sp (a : Word) (v : Byte) (s : State) : (memWrite a v s).sp = s.sp := rfl
@[simp] theorem memWrite_p (a : Word) (v : Byte) (s : State) : (memWrite a v s).p = s.p := rfl
@[simp] theorem memWrite_t (a : Word) (v : Byte) (s : State) : (memWrite a v s).t = s.t := rfl
@[simp] theorem memWrite_cfg (a : Word) (v : Byte) (s : State) : (memWrite a v s).cfg = s.cfg := rfl
@[simp] theorem memWrite_draws (a : Word) (v : Byte) (s : State) : (memWrite a v s).draws = s.draws := rfl
@[simp] theorem memWrite_mem (a : Word) (v : Byte) (s : State) : (memWrite a v s).mem = s.mem.write a.toNat v := rfl
@[simp] theorem memWrite_flag (a : Word) (v : Byte) (s : State) (f : Flag) : (memWrite a v s).flag f = s.flag f := rfl
@[simp] theorem memWrite_bus (a : Word) (v : Byte) (s : State) : (memWrite a v s).bus = s.bus ++ [.write a v] := rfl

/-- Reading after a write (R55). -/
@[simp] theorem memWrite_peek (a b : Word) (v : Byte) (s : State) :
    (memWrite a v s).peek b = if b = a then v else s.peek b := by
  simp [State.peek, BitVec.toNat_inj]

theorem word_lt_size (a : Word) : a.toNat < Memory.size := a.isLt

@[simp] theorem read16_value (a : Word) (s : State) :
    (read16 a s).1 = joinBytes (s.peek (a + 1)) (s.peek a) := rfl

@[simp] theorem read16_state (a : Word) (s : State) :
    (read16 a s).2 = s.setBus (s.bus ++ [.read a, .read (a + 1)]) := by
  simp [read16, State.setBus]

@[simp] theorem readZP16_value (z : Byte) (s : State) :
    (readZP16 z s).1 = joinBytes (s.peek (zeroPage (z + 1))) (s.peek (zeroPage z)) := rfl

@[simp] theorem readZP16_state (z : Byte) (s : State) :
    (readZP16 z s).2 = s.setBus (s.bus ++ [.read (zeroPage z), .read (zeroPage (z + 1))]) := by
  simp [readZP16, State.setBus]

/-! ### The stack -/

theorem stackAddr_inj {a b : Byte} : stackAddr a = stackAddr b ↔ a = b := by
  simp [stackAddr, joinBytes_inj]

theorem stackAddr_toNat (sp : Byte) : (stackAddr sp).toNat = 256 + sp.toNat := by simp [stackAddr, joinBytes_toNat]

theorem zeroPage_toNat (z : Byte) : (zeroPage z).toNat = z.toNat := by simp [zeroPage, joinBytes_toNat]

/-- S after several pushes or pulls is one sum (R46, R47). -/
@[simp] theorem sub_one_sub_one (b : Byte) : b - 1#8 - 1#8 = b - 2#8 := by bv_omega
@[simp] theorem sub_two_sub_one (b : Byte) : b - 2#8 - 1#8 = b - 3#8 := by bv_omega
@[simp] theorem add_one_add_one (b : Byte) : b + 1#8 + 1#8 = b + 2#8 := by bv_omega
@[simp] theorem add_two_add_one (b : Byte) : b + 2#8 + 1#8 = b + 3#8 := by bv_omega
@[simp] theorem sub_add_one (b : Byte) : b - 1#8 + 1#8 = b := by bv_omega
@[simp] theorem sub_two_add_one (b : Byte) : b - 2#8 + 1#8 = b - 1#8 := by bv_omega
@[simp] theorem sub_three_add_one (b : Byte) : b - 3#8 + 1#8 = b - 2#8 := by bv_omega

/-- The three bytes of an entry's stack frame are three addresses (R47: the stack wraps in its page). -/
@[simp] theorem ne_sub_one (b : Byte) : b ≠ b - 1#8 := by bv_omega
@[simp] theorem ne_sub_two (b : Byte) : b ≠ b - 2#8 := by bv_omega
@[simp] theorem sub_one_ne_sub_two (b : Byte) : b - 1#8 ≠ b - 2#8 := by bv_omega

/-- A push writes one byte and moves S (R46). -/
theorem push_eq (v : Byte) (s : State) : push v s = (memWrite (stackAddr s.sp) v s).setSp (s.sp - 1) := rfl

@[simp] theorem pull_value (s : State) : (pull s).1 = s.peek (stackAddr (s.sp + 1)) := rfl

@[simp] theorem pull_state (s : State) :
    (pull s).2 = (s.setSp (s.sp + 1)).setBus (s.bus ++ [.read (stackAddr (s.sp + 1))]) := rfl

/-- An address goes to two bytes of the stack, high byte first (R48). -/
theorem pushWord_eq (w : Word) (s : State) :
    pushWord w s =
      (memWrite (stackAddr (s.sp - 1)) (loByte w) (memWrite (stackAddr s.sp) (hiByte w) s)).setSp (s.sp - 1 - 1) := rfl

@[simp] theorem pullWord_value (s : State) :
    (pullWord s).1 = joinBytes (s.peek (stackAddr (s.sp + 1 + 1))) (s.peek (stackAddr (s.sp + 1))) := rfl

@[simp] theorem pullWord_state (s : State) :
    (pullWord s).2 = (s.setSp (s.sp + 1 + 1)).setBus
      (s.bus ++ [.read (stackAddr (s.sp + 1)), .read (stackAddr (s.sp + 1 + 1))]) := by
  simp [pullWord, State.setBus, State.setSp, pull, memRead, State.note]

/-! ### Interrupt entry and return -/

/-- The stack writes of an entry: PC high, PC low, then P (R244). -/
def entryStack (ret : Word) (pushed : Byte) (s : State) : State :=
  memWrite (stackAddr (s.sp - 1 - 1)) pushed
    (memWrite (stackAddr (s.sp - 1)) (loByte ret) (memWrite (stackAddr s.sp) (hiByte ret) s))

/-- Everything an entry does (R244, R204). -/
theorem enter_eq (vector ret : Word) (pushed : Byte) (s : State) :
    enter vector ret pushed s =
      (((((entryStack ret pushed s).setSp (s.sp - 1 - 1 - 1)).setFlag .I true).setPc
        (joinBytes ((entryStack ret pushed s).peek (vector + 1)) ((entryStack ret pushed s).peek vector))).setBus
        (s.bus ++ [.write (stackAddr s.sp) (hiByte ret), .write (stackAddr (s.sp - 1)) (loByte ret),
          .write (stackAddr (s.sp - 1 - 1)) pushed, .read vector, .read (vector + 1)])) := by
  simp [enter, entryStack, push_eq, pushWord_eq, State.setBus, State.setPc, State.setFlag, State.setSp, State.setP,
    memWrite, State.note, State.setMem, read16, memRead, State.peek]

/-- Everything RTI's return does (R205). -/
theorem returnFromInterrupt_eq (s : State) :
    returnFromInterrupt s =
      ((((s.setP (pullP s.cfg.pullP (s.peek (stackAddr (s.sp + 1))))).setSp (s.sp + 1 + 1 + 1)).setPc
        (joinBytes (s.peek (stackAddr (s.sp + 1 + 1 + 1))) (s.peek (stackAddr (s.sp + 1 + 1))))).setBus
        (s.bus ++ [.read (stackAddr (s.sp + 1)), .read (stackAddr (s.sp + 1 + 1)),
          .read (stackAddr (s.sp + 1 + 1 + 1))])) := by
  simp [returnFromInterrupt, pullWord, pull, memRead, State.note, State.setBus, State.setPc, State.setSp, State.setP,
    State.peek]

/-! ### The end of an instruction -/

@[simp] theorem advance_eq (i : Instr) (s : State) : advance i s = s.setPc (s.pc + BitVec.ofNat 16 i.length) := rfl

/-- An instruction with a row in the opcode table completes, and T is its count (R82). -/
theorem complete_of_opcode {i : Instr} {op : Byte} (h : i.opcode = some op) (cross : Bool) (s : State) :
    complete i cross s = .next (s.setT (cycles op cross)) := by
  simp [complete, h]

/-- All that `complete` can answer with a next state. -/
theorem complete_next {i : Instr} {cross : Bool} {s t : State} (h : complete i cross s = .next t) :
    ∃ op, i.opcode = some op ∧ t = s.setT (cycles op cross) := by
  unfold complete at h
  split at h
  · next op hop => exact ⟨op, hop, by simpa using h.symm⟩
  · cases h

/-- A term with no row is refused by name. -/
theorem complete_of_none {i : Instr} (h : i.opcode = none) (cross : Bool) (s : State) :
    complete i cross s = .refused .noEncoding := by
  simp [complete, h]

/-- Everything a halt does (R231). -/
theorem halt_eq (s : State) :
    halt s = (s.setT haltSentinel).setPc (if s.cfg.jamPc = .atOpcode then s.pc else s.pc + 1) := by
  unfold halt
  cases s.cfg.jamPc <;> rfl

/-- The jam is one value of T (R232). -/
theorem jammed_iff (s : State) : s.jammed = true ↔ s.t = 0xFF := by simp [State.jammed, haltSentinel]

/-! ### Fetch -/

/-- The reads of a fetch: the opcode and as many operand bytes as it has (R53, R85). -/
def fetchReads (pc : Word) (n : Nat) : List Access :=
  [Access.read pc] ++ (if 1 ≤ n then [.read (pc + 1)] else []) ++ (if 2 ≤ n then [.read (pc + 2)] else [])

/-- A fetch changes nothing but the access list. -/
theorem fetch_state (s : State) :
    (fetch s).state = s.setBus (s.bus ++ fetchReads s.pc (operandCount (s.peek s.pc))) := by
  unfold fetch
  simp only [memRead_value, memRead_state]
  split
  · next h => simp [fetchReads, h]
  · next h => simp [fetchReads, h, State.setBus]
  · next h0 h1 =>
    have : 2 ≤ operandCount (s.peek s.pc) := by
      have h0 : operandCount (s.peek s.pc) ≠ 0 := h0
      have h1 : operandCount (s.peek s.pc) ≠ 1 := h1
      omega
    have h1 : 1 ≤ operandCount (s.peek s.pc) := by omega
    simp [fetchReads, this, h1, State.setBus]

end Sys2Proof.Machine
end

