-- ==== Sys2Proof/Laws/Operands.lean ====
section
/-! SUPPORT. One lemma per operand operation: what resolving, reading, storing and modifying do to a state. -/

namespace Sys2Proof.Machine

/-- Two addresses lie in different pages when their high bytes differ (R72). -/
theorem crosses_eq (base a : Word) : crosses base a = decide (a.toNat / 256 ≠ base.toNat / 256) := by
  unfold crosses
  rw [Bool.eq_iff_iff]
  simp [← BitVec.toNat_inj, hiByte_toNat]

/-- Resolving an operand only makes its pointer reads. -/
@[simp] theorem resolve_state (m : Address) (s : State) :
    (resolve m s).state = s.setBus (s.bus ++ pointerReads m s) := by
  cases m <;> simp [resolve, pointerReads, indexed, State.setBus]

/-- The effective address and the page cross do not depend on PC. -/
@[simp] theorem resolve_setPc_ea (m : Address) (s : State) (v : Word) :
    (resolve m (s.setPc v)).ea = (resolve m s).ea := by
  cases m <;> rfl

@[simp] theorem resolve_setPc_cross (m : Address) (s : State) (v : Word) :
    (resolve m (s.setPc v)).cross = (resolve m s).cross := by
  cases m <;> rfl

@[simp] theorem pointerReads_setPc (m : Address) (s : State) (v : Word) :
    pointerReads m (s.setPc v) = pointerReads m s := by
  cases m <;> rfl

/-- Everything reading an operand does. -/
theorem loadSource_eq (o : Source) (s : State) :
    (loadSource o s).value = valueOf o s ∧ (loadSource o s).cross = crossOf o s ∧
    (loadSource o s).state = s.setBus (s.bus ++ operandReads o s) := by
  cases o with
  | imm v => simp [loadSource, valueOf, crossOf, operandReads, State.setBus]
  | mem m => simp [loadSource, loadAddress, valueOf, crossOf, operandReads, ea, State.setBus, State.peek]

@[simp] theorem loadSource_value (o : Source) (s : State) : (loadSource o s).value = valueOf o s := (loadSource_eq o s).1

@[simp] theorem loadSource_cross (o : Source) (s : State) : (loadSource o s).cross = crossOf o s :=
  (loadSource_eq o s).2.1

@[simp] theorem loadSource_state (o : Source) (s : State) :
    (loadSource o s).state = s.setBus (s.bus ++ operandReads o s) := (loadSource_eq o s).2.2

@[simp] theorem valueOf_setPc (o : Source) (s : State) (v : Word) : valueOf o (s.setPc v) = valueOf o s := by
  cases o <;> simp [valueOf, ea]

@[simp] theorem crossOf_setPc (o : Source) (s : State) (v : Word) : crossOf o (s.setPc v) = crossOf o s := by
  cases o <;> simp [crossOf]

@[simp] theorem operandReads_setPc (o : Source) (s : State) (v : Word) :
    operandReads o (s.setPc v) = operandReads o s := by
  cases o <;> simp [operandReads, ea]

@[simp] theorem ea_setPc (m : Address) (s : State) (v : Word) : ea m (s.setPc v) = ea m s := by
  simp [ea]

/-- Everything reading a byte in memory through its operand does. -/
@[simp] theorem loadAddress_eq (m : Address) (s : State) :
    loadAddress m s =
      ⟨s.peek (ea m s), (resolve m s).cross, s.setBus (s.bus ++ pointerReads m s ++ [.read (ea m s)])⟩ := by
  simp [loadAddress, ea, State.setBus, State.peek]

/-- Everything storing to an operand does. -/
@[simp] theorem storeAddress_eq (m : Address) (v : Byte) (s : State) :
    storeAddress m v s =
      ⟨(resolve m s).cross, memWrite (ea m s) v (s.setBus (s.bus ++ pointerReads m s))⟩ := by
  simp [storeAddress, ea]

/-- Everything a read-modify-write of memory does. -/
@[simp] theorem modifyAddress_eq (m : Address) (f : Byte → Byte) (s : State) :
    modifyAddress m f s =
      ⟨s.peek (ea m s), (resolve m s).cross,
        memWrite (ea m s) (f (s.peek (ea m s))) (s.setBus (s.bus ++ pointerReads m s ++ [.read (ea m s)]))⟩ := by
  simp [modifyAddress, ea, State.setBus, State.peek]

@[simp] theorem modifyTarget_acc (f : Byte → Byte) (s : State) :
    modifyTarget .acc f s = ⟨s.a, false, s.setA (f s.a)⟩ := rfl

@[simp] theorem modifyTarget_mem (m : Address) (f : Byte → Byte) (s : State) :
    modifyTarget (.mem m) f s = modifyAddress m f s := rfl

end Sys2Proof.Machine
end

