-- ==== Sys2Proof/Laws/PerInstr.lean ====
section
/-! SUPPORT. Laws stated of every instruction as syntax, one lemma per constructor. `Encodes`: R83's opcode table has an
opcode for exactly the forms the instruction rules list (and R84's list for the invalid opcodes). -/

namespace Sys2Proof.Laws.Encodes

/-- The opcode table has a row for an instruction exactly when it is well-formed. -/
def Statement (i : Instr) : Prop := i.opcode.isSome = i.wf

theorem lda (o : Source) : Statement (.lda o) := by
  cases o with
  | imm v => rfl
  | mem m => cases m <;> rfl
theorem ldx (o : Source) : Statement (.ldx o) := by
  cases o with
  | imm v => rfl
  | mem m => cases m <;> rfl
theorem ldy (o : Source) : Statement (.ldy o) := by
  cases o with
  | imm v => rfl
  | mem m => cases m <;> rfl
theorem sta (m : Address) : Statement (.sta m) := by cases m <;> rfl
theorem stx (m : Address) : Statement (.stx m) := by cases m <;> rfl
theorem sty (m : Address) : Statement (.sty m) := by cases m <;> rfl
theorem tax : Statement .tax := rfl
theorem tay : Statement .tay := rfl
theorem txa : Statement .txa := rfl
theorem tya : Statement .tya := rfl
theorem tsx : Statement .tsx := rfl
theorem txs : Statement .txs := rfl
theorem pha : Statement .pha := rfl
theorem php : Statement .php := rfl
theorem pla : Statement .pla := rfl
theorem plp : Statement .plp := rfl
theorem adc (o : Source) : Statement (.adc o) := by
  cases o with
  | imm v => rfl
  | mem m => cases m <;> rfl
theorem sbc (o : Source) : Statement (.sbc o) := by
  cases o with
  | imm v => rfl
  | mem m => cases m <;> rfl
theorem cmp (o : Source) : Statement (.cmp o) := by
  cases o with
  | imm v => rfl
  | mem m => cases m <;> rfl
theorem cpx (o : Source) : Statement (.cpx o) := by
  cases o with
  | imm v => rfl
  | mem m => cases m <;> rfl
theorem cpy (o : Source) : Statement (.cpy o) := by
  cases o with
  | imm v => rfl
  | mem m => cases m <;> rfl
theorem inc (m : Address) : Statement (.inc m) := by cases m <;> rfl
theorem dec (m : Address) : Statement (.dec m) := by cases m <;> rfl
theorem inx : Statement .inx := rfl
theorem iny : Statement .iny := rfl
theorem dex : Statement .dex := rfl
theorem dey : Statement .dey := rfl
theorem and (o : Source) : Statement (.and o) := by
  cases o with
  | imm v => rfl
  | mem m => cases m <;> rfl
theorem ora (o : Source) : Statement (.ora o) := by
  cases o with
  | imm v => rfl
  | mem m => cases m <;> rfl
theorem eor (o : Source) : Statement (.eor o) := by
  cases o with
  | imm v => rfl
  | mem m => cases m <;> rfl
theorem bit (m : Address) : Statement (.bit m) := by cases m <;> rfl
theorem asl (t : Target) : Statement (.asl t) := by
  cases t with
  | acc => rfl
  | mem m => cases m <;> rfl
theorem lsr (t : Target) : Statement (.lsr t) := by
  cases t with
  | acc => rfl
  | mem m => cases m <;> rfl
theorem rol (t : Target) : Statement (.rol t) := by
  cases t with
  | acc => rfl
  | mem m => cases m <;> rfl
theorem ror (t : Target) : Statement (.ror t) := by
  cases t with
  | acc => rfl
  | mem m => cases m <;> rfl
theorem jmp (a : Word) : Statement (.jmp a) := rfl
theorem jmpInd (ptr : Word) : Statement (.jmpInd ptr) := rfl
theorem jsr (a : Word) : Statement (.jsr a) := rfl
theorem rts : Statement .rts := rfl
theorem bcc (off : Byte) : Statement (.bcc off) := rfl
theorem bcs (off : Byte) : Statement (.bcs off) := rfl
theorem beq (off : Byte) : Statement (.beq off) := rfl
theorem bne (off : Byte) : Statement (.bne off) := rfl
theorem bmi (off : Byte) : Statement (.bmi off) := rfl
theorem bpl (off : Byte) : Statement (.bpl off) := rfl
theorem bvc (off : Byte) : Statement (.bvc off) := rfl
theorem bvs (off : Byte) : Statement (.bvs off) := rfl
theorem brk : Statement .brk := rfl
theorem rti : Statement .rti := rfl
theorem clc : Statement .clc := rfl
theorem sec : Statement .sec := rfl
theorem cli : Statement .cli := rfl
theorem sei : Statement .sei := rfl
theorem cld : Statement .cld := rfl
theorem sed : Statement .sed := rfl
theorem clv : Statement .clv := rfl
theorem nop : Statement .nop := rfl
theorem jam (op : Byte) : Statement (.jam op) := by
  unfold Statement Instr.opcode Instr.wf
  by_cases h : op ∈ invalidOpcodes <;> simp [h]

end Sys2Proof.Laws.Encodes
end

