-- ==== Sys2Proof/Tests/Slice0.lean ====
section
/-! SUPPORT. The model's own tests. Expected values are the spec's: the words of 30_encoding.md rule R83 and the
vectors V1 to V152 and L2.13 of 95_test_vectors.md, each named in its test's comment. Then one witness for each statement that
has hypotheses: a concrete state and operands that meet all of them together. -/

namespace Sys2Proof.Tests

open Machine

/-! ### Helpers -/

/-- The start state of the spec's vectors (95_test_vectors.md L2): after Reset, PC at `$0200` and T = 0. -/
def start : State := { State.reset with pc := 0x0200, t := 0x00 }

/-- A state with some bytes stored by the host. -/
def store (cells : List (Word × Byte)) (s : State) : State := cells.foldl (fun s c => hostStore c.1 c.2 s) s

/-- A state with an instruction's bytes at PC and other bytes in memory. -/
def load (code : List Byte) (cells : List (Word × Byte)) (s : State) : State :=
  store cells (store (((List.range code.length).zip code).map fun p => (s.pc + BitVec.ofNat 16 p.1, p.2)) s)

/-- The state after one Step. -/
def after (s : State) : State :=
  match step s with
  | .next t    => t
  | .fault _   => s
  | .refused _ => s

/-- The writes of the last transition, in order. -/
def writes (s : State) : List (Word × Byte) :=
  s.bus.filterMap fun c => match c with
    | .read _ => none
    | .write a v => some (a, v)

/-- The instruction a list of bytes decodes to, when no byte is left over. -/
def reads (bytes : List Byte) : Option Instr :=
  match decode bytes with
  | .ok (i, []) => some i
  | .ok (_, _ :: _) => none
  | .error _ => none

/-! ### Decoding: every constructor by a word from R83 -/

/-- Loads and stores (R100 to R105). -/
theorem test_decode_load_store :
    reads [0xA9, 0x05] = some (.lda (.imm 0x05)) ∧ reads [0xB6, 0x10] = some (.ldx (.mem (.zpY 0x10))) ∧
    reads [0xBC, 0x34, 0x12] = some (.ldy (.mem (.absX 0x1234))) ∧ reads [0x9D, 0xFF, 0x12] = some (.sta (.absX 0x12FF)) ∧
    reads [0x96, 0xFF] = some (.stx (.zpY 0xFF)) ∧ reads [0x8C, 0x34, 0x12] = some (.sty (.abs 0x1234)) := by decide

/-- The eight modes of LDA (R100). -/
theorem test_decode_modes :
    reads [0xA5, 0x12] = some (.lda (.mem (.zp 0x12))) ∧ reads [0xB5, 0x12] = some (.lda (.mem (.zpX 0x12))) ∧
    reads [0xAD, 0x34, 0x12] = some (.lda (.mem (.abs 0x1234))) ∧
    reads [0xBD, 0x34, 0x12] = some (.lda (.mem (.absX 0x1234))) ∧
    reads [0xB9, 0x34, 0x12] = some (.lda (.mem (.absY 0x1234))) ∧
    reads [0xA1, 0x12] = some (.lda (.mem (.indX 0x12))) ∧ reads [0xB1, 0x12] = some (.lda (.mem (.indY 0x12))) := by
  decide

/-- Transfers and stack (R120 to R129). -/
theorem test_decode_transfer_stack :
    reads [0xAA] = some .tax ∧ reads [0xA8] = some .tay ∧ reads [0x8A] = some .txa ∧ reads [0x98] = some .tya ∧
    reads [0xBA] = some .tsx ∧ reads [0x9A] = some .txs ∧ reads [0x48] = some .pha ∧ reads [0x08] = some .php ∧
    reads [0x68] = some .pla ∧ reads [0x28] = some .plp := by decide

/-- Arithmetic (R141 to R156). -/
theorem test_decode_arithmetic :
    reads [0x69, 0x01] = some (.adc (.imm 0x01)) ∧ reads [0xF1, 0x10] = some (.sbc (.mem (.indY 0x10))) ∧
    reads [0xD9, 0x34, 0x12] = some (.cmp (.mem (.absY 0x1234))) ∧ reads [0xE4, 0x10] = some (.cpx (.mem (.zp 0x10))) ∧
    reads [0xC0, 0x10] = some (.cpy (.imm 0x10)) ∧ reads [0xF6, 0x10] = some (.inc (.zpX 0x10)) ∧
    reads [0xDE, 0x33, 0x12] = some (.dec (.absX 0x1233)) ∧ reads [0xE8] = some .inx ∧ reads [0xC8] = some .iny ∧
    reads [0xCA] = some .dex ∧ reads [0x88] = some .dey := by decide

/-- Logic, shifts and rotates (R170 to R177). -/
theorem test_decode_logic_shift :
    reads [0x29, 0x0F] = some (.and (.imm 0x0F)) ∧ reads [0x01, 0x10] = some (.ora (.mem (.indX 0x10))) ∧
    reads [0x51, 0x10] = some (.eor (.mem (.indY 0x10))) ∧ reads [0x2C, 0x34, 0x12] = some (.bit (.abs 0x1234)) ∧
    reads [0x0A] = some (.asl .acc) ∧ reads [0x5E, 0x33, 0x12] = some (.lsr (.mem (.absX 0x1233))) ∧
    reads [0x26, 0x10] = some (.rol (.mem (.zp 0x10))) ∧ reads [0x6A] = some (.ror .acc) := by decide

/-- Control (R190 to R205). -/
theorem test_decode_control :
    reads [0x4C, 0x34, 0x12] = some (.jmp 0x1234) ∧ reads [0x6C, 0xFF, 0x10] = some (.jmpInd 0x10FF) ∧
    reads [0x20, 0x34, 0x12] = some (.jsr 0x1234) ∧ reads [0x60] = some .rts ∧ reads [0x90, 0x01] = some (.bcc 0x01) ∧
    reads [0xB0, 0x05] = some (.bcs 0x05) ∧ reads [0xF0, 0xFE] = some (.beq 0xFE) ∧ reads [0xD0, 0xFD] = some (.bne 0xFD) ∧
    reads [0x30, 0x10] = some (.bmi 0x10) ∧ reads [0x10, 0x20] = some (.bpl 0x20) ∧ reads [0x50, 0x02] = some (.bvc 0x02) ∧
    reads [0x70, 0x80] = some (.bvs 0x80) ∧ reads [0x00] = some .brk ∧ reads [0x40] = some .rti := by decide

/-- Flag instructions, NOP and the invalid opcodes (R220 to R231). -/
theorem test_decode_flags_invalid :
    reads [0x18] = some .clc ∧ reads [0x38] = some .sec ∧ reads [0x58] = some .cli ∧ reads [0x78] = some .sei ∧
    reads [0xD8] = some .cld ∧ reads [0xF8] = some .sed ∧ reads [0xB8] = some .clv ∧ reads [0xEA] = some .nop ∧
    reads [0x02] = some (.jam 0x02) ∧ reads [0x1A] = some (.jam 0x1A) ∧ reads [0xFF] = some (.jam 0xFF) := by decide

/-- A list that ends before its instruction does is rejected by name. -/
theorem test_decode_truncated :
    (match decode [] with | .error e => decide (e = .empty) | .ok _ => false) = true ∧
    (match decode [0x20, 0x34] with | .error e => decide (e = .truncated 0x20) | .ok _ => false) = true := by decide

/-- The table's words: bit 0 is the opcode's, and bits above `nbits` are 0. -/
theorem test_decodeTableWord :
    decodeTableWord 8 0x6C = some (.jmpInd 0x0000) ∧ decodeTableWord 24 0x123420 = some (.jsr 0x1234) ∧
    decodeTableWord 8 0x1A9 = some (.lda (.imm 0x00)) ∧ decodeTableWord 8 0xFF = some (.jam 0xFF) := by decide

/-- A word placed by the host runs as the first instruction after Reset: LDX # (V11's opcode family, R101). -/
theorem test_withFetchWord : (after (State.reset.withFetchWord 16 0x80A2)).x = 0x80 := by decide

/-- A jammed block given a word is one the host resumes (R34). -/
theorem test_withFetchWord_resumes :
    (after (({ start with t := 0xFF } : State).withFetchWord 8 0xEA)).pc = 0x0201 := by decide

/-! ### Well-formedness: one ill-formed term for each check -/

/-- No store to an immediate operand exists as a term; a mode the rule does not list is refused (R100 to R105). -/
theorem test_wf_refuses_load_store_modes :
    (Instr.lda (.mem (.zpY 0x10))).wf = false ∧ (Instr.ldx (.mem (.zpX 0x10))).wf = false ∧
    (Instr.ldy (.mem (.absY 0x1234))).wf = false ∧ (Instr.sta (.zpY 0x10)).wf = false ∧
    (Instr.stx (.zpX 0x10)).wf = false ∧ (Instr.sty (.absX 0x1234)).wf = false := by decide

/-- R141 to R152. -/
theorem test_wf_refuses_arithmetic_modes :
    (Instr.adc (.mem (.zpY 0x10))).wf = false ∧ (Instr.sbc (.mem (.zpY 0x10))).wf = false ∧
    (Instr.cmp (.mem (.zpY 0x10))).wf = false ∧ (Instr.cpx (.mem (.zpX 0x10))).wf = false ∧
    (Instr.cpy (.mem (.absX 0x1234))).wf = false ∧ (Instr.inc (.indX 0x10)).wf = false ∧
    (Instr.dec (.absY 0x1234)).wf = false := by decide

/-- R170 to R177. -/
theorem test_wf_refuses_logic_modes :
    (Instr.and (.mem (.zpY 0x10))).wf = false ∧ (Instr.ora (.mem (.zpY 0x10))).wf = false ∧
    (Instr.eor (.mem (.zpY 0x10))).wf = false ∧ (Instr.bit (.zpX 0x10)).wf = false ∧
    (Instr.asl (.mem (.absY 0x1234))).wf = false ∧ (Instr.lsr (.mem (.indX 0x10))).wf = false ∧
    (Instr.rol (.mem (.indY 0x10))).wf = false ∧ (Instr.ror (.mem (.zpY 0x10))).wf = false := by decide

/-- A jam carries an invalid opcode (R84), and an ill-formed term has no encoding. -/
theorem test_wf_refuses_jam_of_a_valid_opcode :
    (Instr.jam 0xEA).wf = false ∧ (Instr.jam 0x89).wf = true ∧ encode (.jam 0xEA) = none := by decide

/-! ### One Step of each instruction, and IRQ, NMI and Reset -/

/-- V5 (R100, R72): LDA $12F0,X. -/
theorem test_lda_absX_crosses :
    let t := after (load [0xBD, 0xF0, 0x12] [(0x1310, 0x01)] { start with x := 0x20 })
    t.pc = 0x0203 ∧ t.a = 0x01 ∧ t.p = 0x20 ∧ t.t = 0x05 ∧ writes t = [] := by decide

/-- V10 (R100, R44): LDA ($FF),Y. -/
theorem test_lda_indY_pointer_wraps :
    let t := after (load [0xB1, 0xFF] [(0x0000, 0x30), (0x00FF, 0x00), (0x3005, 0x0A)] { start with y := 0x05 })
    t.pc = 0x0202 ∧ t.a = 0x0A ∧ t.p = 0x20 ∧ t.t = 0x05 ∧ writes t = [] := by decide

/-- V11 (R101): LDX $F0,Y. -/
theorem test_ldx_zpY_wraps :
    let t := after (load [0xB6, 0xF0] [(0x0010, 0x80)] { start with y := 0x20 })
    t.pc = 0x0202 ∧ t.x = 0x80 ∧ t.p = 0xA0 ∧ t.t = 0x04 ∧ writes t = [] := by decide

/-- V12 (R101): LDX $12FF,Y. -/
theorem test_ldx_absY_crosses :
    let t := after (load [0xBE, 0xFF, 0x12] [(0x1300, 0x00)] { start with x := 0x33, y := 0x01 })
    t.pc = 0x0203 ∧ t.x = 0x00 ∧ t.p = 0x22 ∧ t.t = 0x05 ∧ writes t = [] := by decide

/-- V14 (R102): LDY $12F0,X. -/
theorem test_ldy_absX :
    let t := after (load [0xBC, 0xF0, 0x12] [(0x1310, 0x05)] { start with x := 0x20 })
    t.pc = 0x0203 ∧ t.y = 0x05 ∧ t.p = 0x20 ∧ t.t = 0x05 ∧ writes t = [] := by decide

/-- V13 (R102): LDY #$FF. -/
theorem test_ldy_imm :
    let t := after (load [0xA0, 0xFF] [] start)
    t.pc = 0x0202 ∧ t.y = 0xFF ∧ t.p = 0xA0 ∧ t.t = 0x02 ∧ writes t = [] := by decide

/-- V15 (R103, R86): STA $12F0,X. -/
theorem test_sta_absX_no_penalty :
    let t := after (load [0x9D, 0xF0, 0x12] [] { start with x := 0x20, p := 0xA0 })
    t.pc = 0x0203 ∧ t.p = 0xA0 ∧ t.t = 0x05 ∧ writes t = [(0x1310, 0x00)] := by decide

/-- V17 (R103, R44): STA ($FE,X). -/
theorem test_sta_indX_index_wraps :
    let t := after (load [0x81, 0xFE] [(0x0001, 0x34), (0x0002, 0x12)] { start with a := 0x77, x := 0x03 })
    t.pc = 0x0202 ∧ t.p = 0x20 ∧ t.t = 0x06 ∧ writes t = [(0x1234, 0x77)] := by decide

/-- V18 (R104): STX $F0,Y. -/
theorem test_stx_zpY :
    let t := after (load [0x96, 0xF0] [] { start with x := 0x66, y := 0x20 })
    t.pc = 0x0202 ∧ t.p = 0x20 ∧ t.t = 0x04 ∧ writes t = [(0x0010, 0x66)] := by decide

/-- V19 (R105): STY $1234. -/
theorem test_sty_abs :
    let t := after (load [0x8C, 0x34, 0x12] [] { start with y := 0x81 })
    t.pc = 0x0203 ∧ t.p = 0x20 ∧ t.t = 0x04 ∧ writes t = [(0x1234, 0x81)] := by decide

/-- V21 (R120): TAX. -/
theorem test_tax :
    let t := after (load [0xAA] [] { start with x := 0x05 })
    t.pc = 0x0201 ∧ t.x = 0x00 ∧ t.p = 0x22 ∧ t.t = 0x02 ∧ writes t = [] := by decide

/-- V22 (R121): TAY. -/
theorem test_tay :
    let t := after (load [0xA8] [] { start with a := 0xF0 })
    t.pc = 0x0201 ∧ t.y = 0xF0 ∧ t.p = 0xA0 ∧ t.t = 0x02 ∧ writes t = [] := by decide

/-- V23 (R122): TXA. -/
theorem test_txa :
    let t := after (load [0x8A] [] { start with a := 0x01, x := 0x7F })
    t.pc = 0x0201 ∧ t.a = 0x7F ∧ t.p = 0x20 ∧ t.t = 0x02 ∧ writes t = [] := by decide

/-- V24 (R123): TYA. -/
theorem test_tya :
    let t := after (load [0x98] [] { start with y := 0x80 })
    t.pc = 0x0201 ∧ t.a = 0x80 ∧ t.p = 0xA0 ∧ t.t = 0x02 ∧ writes t = [] := by decide

/-- V25 (R124): TSX. -/
theorem test_tsx :
    let t := after (load [0xBA] [] start)
    t.pc = 0x0201 ∧ t.x = 0xFD ∧ t.p = 0xA0 ∧ t.t = 0x02 ∧ writes t = [] := by decide

/-- V26 (R125): TXS. -/
theorem test_txs :
    let t := after (load [0x9A] [] start)
    t.pc = 0x0201 ∧ t.sp = 0x00 ∧ t.p = 0x20 ∧ t.t = 0x02 ∧ writes t = [] := by decide

/-- V28 (R126, R46): PHA (S=$00). -/
theorem test_pha_wraps :
    let t := after (load [0x48] [] { start with a := 0x42, sp := 0x00 })
    t.pc = 0x0201 ∧ t.sp = 0xFF ∧ t.p = 0x20 ∧ t.t = 0x03 ∧ writes t = [(0x0100, 0x42)] := by decide

/-- V29 (R127): PHP. -/
theorem test_php :
    let t := after (load [0x08] [] { start with p := 0xC3 })
    t.pc = 0x0201 ∧ t.sp = 0xFC ∧ t.p = 0xC3 ∧ t.t = 0x03 ∧ writes t = [(0x01FD, 0xF3)] := by decide

/-- V32 (R128, R47): PLA (S=$FF). -/
theorem test_pla_wraps :
    let t := after (load [0x68] [(0x0100, 0x90)] { start with sp := 0xFF })
    t.pc = 0x0201 ∧ t.a = 0x90 ∧ t.sp = 0x00 ∧ t.p = 0xA0 ∧ t.t = 0x04 ∧ writes t = [] := by decide

/-- V33 (R129): PLP. -/
theorem test_plp_verbatim :
    let t := after (load [0x28] [(0x01FE, 0xFF)] start)
    t.pc = 0x0201 ∧ t.sp = 0xFE ∧ t.p = 0xFF ∧ t.t = 0x04 ∧ writes t = [] := by decide

/-- V34 (R129): PLP (PULL_P=normalized). -/
theorem test_plp_normalized :
    let t := after (load [0x28] [(0x01FE, 0xFF)] { start with cfg := { pullP := .normalized } })
    t.pc = 0x0201 ∧ t.sp = 0xFE ∧ t.p = 0xEF ∧ t.t = 0x04 ∧ writes t = [] := by decide

/-- V38 (R141): ADC #$50. -/
theorem test_adc_overflows :
    let t := after (load [0x69, 0x50] [] { start with a := 0x50 })
    t.pc = 0x0202 ∧ t.a = 0xA0 ∧ t.p = 0xE0 ∧ t.t = 0x02 ∧ writes t = [] := by decide

/-- V57 (R142, R143): ADC #$79 (DECIMAL_FLAGS=nmos). -/
theorem test_adc_decimal_nmos :
    let t := after (load [0x69, 0x79] [] { start with p := 0x29, cfg := { decimalFlags := .nmos } })
    t.pc = 0x0202 ∧ t.a = 0x80 ∧ t.p = 0xE8 ∧ t.t = 0x02 ∧ writes t = [] := by decide

/-- V44 (R144): SBC #$01; and V69 (R145, R146): SBC #$50 (DECIMAL_FLAGS=nmos). -/
theorem test_sbc :
    (let t := after (load [0xE9, 0x01] [] { start with a := 0x80, p := 0x21 })
    t.pc = 0x0202 ∧ t.a = 0x7F ∧ t.p = 0x61 ∧ t.t = 0x02 ∧ writes t = []) ∧
    (let t := after (load [0xE9, 0x50] [] { start with a := 0x20, p := 0x29, cfg := { decimalFlags := .nmos } })
    t.pc = 0x0202 ∧ t.a = 0x70 ∧ t.p = 0xA8 ∧ t.t = 0x02 ∧ writes t = []) := by decide

/-- V72 (R148): CMP #$01. -/
theorem test_cmp :
    let t := after (load [0xC9, 0x01] [] { start with a := 0x80 })
    t.pc = 0x0202 ∧ t.p = 0x21 ∧ t.t = 0x02 ∧ writes t = [] := by decide

/-- V75 (R149): CPX $10. -/
theorem test_cpx_zp :
    let t := after (load [0xE4, 0x10] [(0x0010, 0xFF)] { start with x := 0x01 })
    t.pc = 0x0202 ∧ t.p = 0x20 ∧ t.t = 0x03 ∧ writes t = [] := by decide

/-- V76 (R150): CPY #$10. -/
theorem test_cpy :
    let t := after (load [0xC0, 0x10] [] { start with y := 0x20 })
    t.pc = 0x0202 ∧ t.p = 0x21 ∧ t.t = 0x02 ∧ writes t = [] := by decide

/-- V78 (R151, R86): INC $12FF,X. -/
theorem test_inc_absX :
    let t := after (load [0xFE, 0xFF, 0x12] [(0x1300, 0x7F)] { start with x := 0x01 })
    t.pc = 0x0203 ∧ t.p = 0xA0 ∧ t.t = 0x07 ∧ writes t = [(0x1300, 0x80)] := by decide

/-- V80 (R152): DEC $10. -/
theorem test_dec_decimal :
    let t := after (load [0xC6, 0x10] [(0x0010, 0x01)] { start with p := 0x28 })
    t.pc = 0x0202 ∧ t.p = 0x2A ∧ t.t = 0x05 ∧ writes t = [(0x0010, 0x00)] := by decide

/-- V81 (R153): INX. -/
theorem test_inx :
    let t := after (load [0xE8] [] { start with x := 0xFF })
    t.pc = 0x0201 ∧ t.x = 0x00 ∧ t.p = 0x22 ∧ t.t = 0x02 ∧ writes t = [] := by decide

/-- V82 (R154): INY. -/
theorem test_iny :
    let t := after (load [0xC8] [] { start with y := 0x7F })
    t.pc = 0x0201 ∧ t.y = 0x80 ∧ t.p = 0xA0 ∧ t.t = 0x02 ∧ writes t = [] := by decide

/-- V83 (R155): DEX. -/
theorem test_dex :
    let t := after (load [0xCA] [] { start with x := 0x01 })
    t.pc = 0x0201 ∧ t.x = 0x00 ∧ t.p = 0x22 ∧ t.t = 0x02 ∧ writes t = [] := by decide

/-- V84 (R156): DEY. -/
theorem test_dey :
    let t := after (load [0x88] [] start)
    t.pc = 0x0201 ∧ t.y = 0xFF ∧ t.p = 0xA0 ∧ t.t = 0x02 ∧ writes t = [] := by decide

/-- V86 (R170): AND #$81. -/
theorem test_and :
    let t := after (load [0x29, 0x81] [] { start with a := 0xFF })
    t.pc = 0x0202 ∧ t.a = 0x81 ∧ t.p = 0xA0 ∧ t.t = 0x02 ∧ writes t = [] := by decide

/-- V88 (R171): ORA #$00. -/
theorem test_ora :
    let t := after (load [0x09, 0x00] [] { start with p := 0xA0 })
    t.pc = 0x0202 ∧ t.p = 0x22 ∧ t.t = 0x02 ∧ writes t = [] := by decide

/-- V89 (R172): EOR #$FF. -/
theorem test_eor :
    let t := after (load [0x49, 0xFF] [] { start with a := 0x0F })
    t.pc = 0x0202 ∧ t.a = 0xF0 ∧ t.p = 0xA0 ∧ t.t = 0x02 ∧ writes t = [] := by decide

/-- V91 (R173): BIT $10. -/
theorem test_bit_zp :
    let t := after (load [0x24, 0x10] [(0x0010, 0xC0)] start)
    t.pc = 0x0202 ∧ t.p = 0xE2 ∧ t.t = 0x03 ∧ writes t = [] := by decide

/-- V92 (R173): BIT $1234. -/
theorem test_bit_abs :
    let t := after (load [0x2C, 0x34, 0x12] [(0x1234, 0x3F)] { start with a := 0x01, p := 0xE2 })
    t.pc = 0x0203 ∧ t.p = 0x20 ∧ t.t = 0x04 ∧ writes t = [] := by decide

/-- V93 (R174): ASL A. -/
theorem test_asl_acc :
    let t := after (load [0x0A] [] { start with a := 0x80 })
    t.pc = 0x0201 ∧ t.a = 0x00 ∧ t.p = 0x23 ∧ t.t = 0x02 ∧ writes t = [] := by decide

/-- V94 (R174): ASL $10. -/
theorem test_asl_zp :
    let t := after (load [0x06, 0x10] [(0x0010, 0x41)] { start with p := 0x21 })
    t.pc = 0x0202 ∧ t.p = 0xA0 ∧ t.t = 0x05 ∧ writes t = [(0x0010, 0x82)] := by decide

/-- V95 (R175): LSR A. -/
theorem test_lsr_acc :
    let t := after (load [0x4A] [] { start with a := 0x01 })
    t.pc = 0x0201 ∧ t.a = 0x00 ∧ t.p = 0x23 ∧ t.t = 0x02 ∧ writes t = [] := by decide

/-- V96 (R175): LSR $1233,X. -/
theorem test_lsr_absX :
    let t := after (load [0x5E, 0x33, 0x12] [(0x1234, 0xFF)] { start with x := 0x01 })
    t.pc = 0x0203 ∧ t.p = 0x21 ∧ t.t = 0x07 ∧ writes t = [(0x1234, 0x7F)] := by decide

/-- V98 (R176): ROL A. -/
theorem test_rol_acc :
    let t := after (load [0x2A] [] { start with a := 0x40, p := 0x21 })
    t.pc = 0x0201 ∧ t.a = 0x81 ∧ t.p = 0xA0 ∧ t.t = 0x02 ∧ writes t = [] := by decide

/-- V97 (R176): ROL A. -/
theorem test_rol_acc_carry_out :
    let t := after (load [0x2A] [] { start with a := 0x80 })
    t.pc = 0x0201 ∧ t.a = 0x00 ∧ t.p = 0x23 ∧ t.t = 0x02 ∧ writes t = [] := by decide

/-- V99 (R177): ROR A. -/
theorem test_ror_acc :
    let t := after (load [0x6A] [] { start with a := 0x01 })
    t.pc = 0x0201 ∧ t.a = 0x00 ∧ t.p = 0x23 ∧ t.t = 0x02 ∧ writes t = [] := by decide

/-- V100 (R177): ROR $10. -/
theorem test_ror_zp :
    let t := after (load [0x66, 0x10] [(0x0010, 0x02)] { start with p := 0x21 })
    t.pc = 0x0202 ∧ t.p = 0xA0 ∧ t.t = 0x05 ∧ writes t = [(0x0010, 0x81)] := by decide

/-- V101 (R190): JMP $1234. -/
theorem test_jmp :
    let t := after (load [0x4C, 0x34, 0x12] [] start)
    t.pc = 0x1234 ∧ t.p = 0x20 ∧ t.t = 0x03 ∧ writes t = [] := by decide

/-- V102 (R191): JMP ($10FF). -/
theorem test_jmpInd_nmos :
    let t := after (load [0x6C, 0xFF, 0x10] [(0x1000, 0x12), (0x10FF, 0x34), (0x1100, 0x56)] start)
    t.pc = 0x1234 ∧ t.p = 0x20 ∧ t.t = 0x05 ∧ writes t = [] := by decide

/-- V103 (R191): JMP ($10FF) (JMP_IND_WRAP=linear). -/
theorem test_jmpInd_linear :
    let t := after (load [0x6C, 0xFF, 0x10] [(0x1000, 0x12), (0x10FF, 0x34), (0x1100, 0x56)] { start with cfg := { jmpIndWrap := .linear } })
    t.pc = 0x5634 ∧ t.p = 0x20 ∧ t.t = 0x05 ∧ writes t = [] := by decide

/-- V106 (R192, R46): JSR $1234. -/
theorem test_jsr_wraps :
    let t := after (load [0x20, 0x34, 0x12] [] { start with pc := 0x12FE, sp := 0x00 })
    t.pc = 0x1234 ∧ t.sp = 0xFE ∧ t.p = 0x20 ∧ t.t = 0x06 ∧ writes t = [(0x0100, 0x13), (0x01FF, 0x00)] := by decide

/-- V109 (R193, R47): RTS. -/
theorem test_rts_wraps :
    let t := after (load [0x60] [(0x0100, 0x12), (0x01FF, 0x33)] { start with sp := 0xFE })
    t.pc = 0x1234 ∧ t.sp = 0x00 ∧ t.p = 0x20 ∧ t.t = 0x06 ∧ writes t = [] := by decide

/-- V112 (R198): BNE -3. -/
theorem test_bne_back_crosses :
    let t := after (load [0xD0, 0xFD] [] start)
    t.pc = 0x01FF ∧ t.p = 0x20 ∧ t.t = 0x04 ∧ writes t = [] := by decide

/-- V110 (R198): BNE +5. -/
theorem test_bne_not_taken :
    let t := after (load [0xD0, 0x05] [] { start with p := 0x22 })
    t.pc = 0x0202 ∧ t.p = 0x22 ∧ t.t = 0x02 ∧ writes t = [] := by decide

/-- V114 (R197, R194): BEQ +0. -/
theorem test_beq_zero_offset :
    let t := after (load [0xF0, 0x00] [] { start with p := 0x22 })
    t.pc = 0x0202 ∧ t.p = 0x22 ∧ t.t = 0x03 ∧ writes t = [] := by decide

/-- V115 (R195): BCC +1. -/
theorem test_bcc_crosses :
    let t := after (load [0x90, 0x01] [] { start with pc := 0x02FD })
    t.pc = 0x0300 ∧ t.p = 0x20 ∧ t.t = 0x04 ∧ writes t = [] := by decide

/-- V116 (R196): BCS +5. -/
theorem test_bcs :
    let t := after (load [0xB0, 0x05] [] { start with p := 0x21 })
    t.pc = 0x0207 ∧ t.p = 0x21 ∧ t.t = 0x03 ∧ writes t = [] := by decide

/-- V117 (R196): BCS +5. -/
theorem test_bcs_not_taken :
    let t := after (load [0xB0, 0x05] [] start)
    t.pc = 0x0202 ∧ t.p = 0x20 ∧ t.t = 0x02 ∧ writes t = [] := by decide

/-- V118 (R199): BMI +$10. -/
theorem test_bmi :
    let t := after (load [0x30, 0x10] [] { start with p := 0xA0 })
    t.pc = 0x0212 ∧ t.p = 0xA0 ∧ t.t = 0x03 ∧ writes t = [] := by decide

/-- V119 (R200): BPL +$20. -/
theorem test_bpl_wraps :
    let t := after (load [0x10, 0x20] [] { start with pc := 0xFFF0 })
    t.pc = 0x0012 ∧ t.p = 0x20 ∧ t.t = 0x04 ∧ writes t = [] := by decide

/-- V120 (R200): BPL +$20. -/
theorem test_bpl_not_taken :
    let t := after (load [0x10, 0x20] [] { start with p := 0xA0 })
    t.pc = 0x0202 ∧ t.p = 0xA0 ∧ t.t = 0x02 ∧ writes t = [] := by decide

/-- V121 (R201): BVC +2. -/
theorem test_bvc_not_taken :
    let t := after (load [0x50, 0x02] [] { start with p := 0x60 })
    t.pc = 0x0202 ∧ t.p = 0x60 ∧ t.t = 0x02 ∧ writes t = [] := by decide

/-- V122 (R201): BVC +2. -/
theorem test_bvc :
    let t := after (load [0x50, 0x02] [] start)
    t.pc = 0x0204 ∧ t.p = 0x20 ∧ t.t = 0x03 ∧ writes t = [] := by decide

/-- V123 (R202): BVS -128. -/
theorem test_bvs :
    let t := after (load [0x70, 0x80] [] { start with p := 0x60 })
    t.pc = 0x0182 ∧ t.p = 0x60 ∧ t.t = 0x04 ∧ writes t = [] := by decide

/-- V125 (R204): BRK. -/
theorem test_brk_keeps_D :
    let t := after (load [0x00, 0xEA] [(0xFFFE, 0x00), (0xFFFF, 0x80)] { start with p := 0xCF })
    t.pc = 0x8000 ∧ t.sp = 0xFA ∧ t.p = 0xCF ∧ t.t = 0x07 ∧ writes t = [(0x01FD, 0x02), (0x01FC, 0x02), (0x01FB, 0xFF)] := by decide

/-- V127 (R205): RTI. -/
theorem test_rti_verbatim :
    let t := after (load [0x40] [(0x01FB, 0x83), (0x01FC, 0x02), (0x01FD, 0x02)] { start with sp := 0xFA, p := 0x24 })
    t.pc = 0x0202 ∧ t.sp = 0xFD ∧ t.p = 0x83 ∧ t.t = 0x06 ∧ writes t = [] := by decide

/-- V128 (R205): RTI (PULL_P=normalized). -/
theorem test_rti_normalized :
    let t := after (load [0x40] [(0x01FB, 0x83), (0x01FC, 0x02), (0x01FD, 0x02)] { start with sp := 0xFA, p := 0x24, cfg := { pullP := .normalized } })
    t.pc = 0x0202 ∧ t.sp = 0xFD ∧ t.p = 0xA3 ∧ t.t = 0x06 ∧ writes t = [] := by decide

/-- V129 (R220): CLC. -/
theorem test_clc :
    let t := after (load [0x18] [] { start with p := 0x21 })
    t.pc = 0x0201 ∧ t.p = 0x20 ∧ t.t = 0x02 ∧ writes t = [] := by decide

/-- V130 (R221): SEC. -/
theorem test_sec :
    let t := after (load [0x38] [] start)
    t.pc = 0x0201 ∧ t.p = 0x21 ∧ t.t = 0x02 ∧ writes t = [] := by decide

/-- V131 (R222): CLI. -/
theorem test_cli :
    let t := after (load [0x58] [] { start with p := 0x24 })
    t.pc = 0x0201 ∧ t.p = 0x20 ∧ t.t = 0x02 ∧ writes t = [] := by decide

/-- V132 (R223): SEI. -/
theorem test_sei :
    let t := after (load [0x78] [] start)
    t.pc = 0x0201 ∧ t.p = 0x24 ∧ t.t = 0x02 ∧ writes t = [] := by decide

/-- V133 (R224): CLD. -/
theorem test_cld :
    let t := after (load [0xD8] [] { start with p := 0x28 })
    t.pc = 0x0201 ∧ t.p = 0x20 ∧ t.t = 0x02 ∧ writes t = [] := by decide

/-- V134 (R225): SED. -/
theorem test_sed :
    let t := after (load [0xF8] [] start)
    t.pc = 0x0201 ∧ t.p = 0x28 ∧ t.t = 0x02 ∧ writes t = [] := by decide

/-- V135 (R226): CLV. -/
theorem test_clv :
    let t := after (load [0xB8] [] { start with p := 0x60 })
    t.pc = 0x0201 ∧ t.p = 0x20 ∧ t.t = 0x02 ∧ writes t = [] := by decide

/-- V136 (R227): NOP. -/
theorem test_nop :
    let t := after (load [0xEA] [] { start with a := 0x12, p := 0xE3 })
    t.pc = 0x0201 ∧ t.p = 0xE3 ∧ t.t = 0x02 ∧ writes t = [] := by decide

/-- V138 (R231): (jam) $02 (JAM_PC=after_opcode). -/
theorem test_jam_after_opcode :
    let t := after (load [0x02, 0xAA] [] { start with pc := 0x0300, a := 0x11, cfg := { jamPc := .afterOpcode } })
    t.pc = 0x0301 ∧ t.p = 0x20 ∧ t.t = 0xFF ∧ writes t = [] := by decide

/-- V140 (R230, R231): (jam) $FF. -/
theorem test_jam_at_opcode :
    let t := after (load [0xFF] [] { start with pc := 0xFFFF })
    t.pc = 0xFFFF ∧ t.p = 0x20 ∧ t.t = 0xFF ∧ writes t = [] := by decide

/-- V143 (R241, R244): IRQ. -/
theorem test_irq :
    let t := irq (load [] [(0xFFFE, 0x00), (0xFFFF, 0x90)] { start with pc := 0x1234, p := 0x31 })
    t.pc = 0x9000 ∧ t.sp = 0xFA ∧ t.p = 0x35 ∧ t.t = 0x07 ∧ writes t = [(0x01FD, 0x12), (0x01FC, 0x34), (0x01FB, 0x21)] := by decide

/-- V144 (R241, R249): IRQ (I set: skipped). -/
theorem test_irq_skipped :
    let t := irq (load [] [(0xFFFE, 0x00), (0xFFFF, 0x90)] { start with pc := 0x1234, p := 0x24, t := 0x03 })
    t.pc = 0x1234 ∧ t.p = 0x24 ∧ t.t = 0x03 ∧ writes t = [] := by decide

/-- V148 (R242, R46): NMI (S=$01). -/
theorem test_nmi_stack_wraps :
    let t := nmi (load [] [(0xFFFA, 0x00), (0xFFFB, 0xA0)] { start with pc := 0x1234, sp := 0x01, p := 0x28 })
    t.pc = 0xA000 ∧ t.sp = 0xFE ∧ t.p = 0x2C ∧ t.t = 0x07 ∧ writes t = [(0x0101, 0x12), (0x0100, 0x34), (0x01FF, 0x28)] := by decide

/-- V142 (R232): LDA #$01 on a jammed block. -/
theorem test_step_of_a_jammed_block :
    let t := after (load [0xA9, 0x01] [] { start with t := 0xFF })
    t.pc = 0x0200 ∧ t.p = 0x20 ∧ t.t = 0xFF ∧ writes t = [] := by decide

/-- V151 (R270): Reset (RESET_P=nmos). T is a draw. -/
theorem test_reset_nmos (count : Fin 255) :
    let t := resetTo count (load [] [(0xFFFC, 0x00), (0xFFFD, 0xC0)]
      { start with pc := 0x1234, a := 0x55, sp := 0x12, p := 0x08, cfg := { resetP := .nmos } })
    t.pc = 0xC000 ∧ t.a = 0x00 ∧ t.sp = 0xFD ∧ t.p = 0x2C ∧ writes t = [] := by
  refine ⟨?_, ?_, ?_, ?_, ?_⟩ <;> rfl

/-- The order of accesses (R53): operand bytes, pointer low, pointer high, data read, data write; entry of BRK (R204). -/
theorem test_access_order :
    (after (load [0x91, 0x10] [(0x0010, 0xF0), (0x0011, 0x12)] { start with a := 0x5A, y := 0x10 })).bus =
      [.read 0x0200, .read 0x0201, .read 0x0010, .read 0x0011, .write 0x1300 0x5A] ∧
    (after (load [0x1E, 0x00, 0x30] [(0x3000, 0x41)] start)).bus =
      [.read 0x0200, .read 0x0201, .read 0x0202, .read 0x3000, .write 0x3000 0x82] ∧
    (after (load [0x00] [(0xFFFF, 0x80)] start)).bus =
      [.read 0x0200, .write 0x01FD 0x02, .write 0x01FC 0x02, .write 0x01FB 0x30, .read 0xFFFE, .read 0xFFFF] := by
  decide

/-- A JSR whose operand lies in the stack page has already read it when it pushes over it (R192, R53). -/
theorem test_jsr_reads_before_it_pushes :
    (after (load [0x20, 0x34, 0x12] [] { start with pc := 0x01FB })).pc = 0x1234 := by decide

/-- Decimal SBC with `SBC_ARG_BUG = unconstrained` (R147, L2.12): only what the rule fixes. -/
theorem test_sbc_unconstrained :
    let t := after (load [0xE9, 0x01] [] { start with a := 0x10, x := 0x07, p := 0x29, cfg := { sbcArgBug := .unconstrained } })
    t.pc = 0x0202 ∧ t.x = 0x07 ∧ t.sp = 0xFD ∧ t.t = 0x02 ∧ writes t = [] ∧ t.draws = 2 := by
  refine ⟨?_, ?_, ?_, ?_, ?_, ?_⟩ <;> rfl

/-! ### Witnesses: each statement's hypotheses are met together -/

/-- A source operand, a memory operand and a shift's operand of a mode. -/
def sampleAddress : Mode → Address
  | .zpX  => .zpX 0xFF
  | .zpY  => .zpY 0xFF
  | .abs  => .abs 0xFFFF
  | .absX => .absX 0xFFFF
  | .absY => .absY 0xFFFF
  | .indX => .indX 0xFF
  | .indY => .indY 0xFF
  | .zp | .impl | .acc | .imm | .ind | .rel | .invalid => .zp 0xFF

def sampleSource (m : Mode) : Source :=
  if m = .imm then .imm 0xFF else .mem (sampleAddress m)

def sampleTarget (m : Mode) : Target :=
  if m = .acc then .acc else .mem (sampleAddress m)

/-- A state whose Step runs an LDA. -/
def runs : State := load [0xA9, 0x80] [] start

/-- A state whose Step jams. -/
def jams : State := load [0x02] [] start

/-- A state that is jammed. -/
def jammedState : State := { start with t := 0xFF }

/-- A state with one byte stored at the top of memory. -/
def topByte : State := load [] [(0xFFFF, 0x01)] start

theorem witness_DecodeOfEncode :
    (Instr.lda (.mem (.absX 0xFFFF))).wf = true ∧ (Instr.jam 0xFF).wf = true ∧ (Instr.bne 0x80).wf = true := by decide

theorem witness_OnlyWellFormedInstructionsRun : (Instr.nop).wf = true ∧ (Instr.sta (.zpY 0x00)).wf = false := by decide

theorem witness_StepRunsTheDecodedInstruction :
    runs.t ≠ 0xFF ∧ decode [runs.peek runs.pc, runs.peek (runs.pc + 1), runs.peek (runs.pc + 2)] =
      .ok (.lda (.imm 0x80), [0x00]) := ⟨by decide, rfl⟩

/-- The same where the instruction straddles the top of memory (R25). -/
theorem witness_StepRunsTheDecodedInstruction_wraps :
    let s := load [0x4C, 0x34, 0x12] [] { start with pc := 0xFFFE }
    s.t ≠ 0xFF ∧ decode [s.peek s.pc, s.peek (s.pc + 1), s.peek (s.pc + 2)] = .ok (.jmp 0x1234, []) := ⟨by decide, rfl⟩

theorem witness_JamIsTerminal :
    jammedState.t = 0xFF ∧ Transition.step ≠ .reset ∧ Transition.irq ≠ .reset ∧ Transition.nmi ≠ .reset ∧
    ∃ t, transition .reset jammedState = .next t := ⟨by decide, by decide, by decide, by decide, _, rfl⟩

/-- Both sides of the first clause (an invalid opcode and a valid one), and both of the second (I clear and I set). -/
theorem witness_OnlyAnInvalidOpcodeJams :
    (jams.t ≠ 0xFF ∧ jams.peek jams.pc ∈ invalidOpcodes ∧ ∃ t, step jams = .next t) ∧
    (runs.t ≠ 0xFF ∧ runs.peek runs.pc ∉ invalidOpcodes ∧ ∃ t, step runs = .next t) ∧
    start.flag .I = false ∧ ({ start with p := 0x24 } : State).flag .I = true :=
  ⟨⟨by decide, by decide, _, rfl⟩, ⟨by decide, by decide, _, rfl⟩, by decide, by decide⟩

theorem witness_MemoryStaysCanonical : ∀ k, ∃ t, topByte.wf = true ∧ topByte.mem ≠ [] ∧ transition k topByte = .next t := by
  intro k
  cases k
  · exact ⟨_, by decide, by decide, rfl⟩
  · exact ⟨_, by decide, by decide, rfl⟩
  · exact ⟨_, by decide, by decide, rfl⟩
  · exact ⟨_, by decide, by decide, rfl⟩

theorem witness_CanonicalMemoriesAreData :
    topByte.mem.wf = true ∧ topByte.mem.read 65535 = 0x01 ∧ ∀ a, a < 65536 → topByte.mem.read a = topByte.mem.read a :=
  ⟨by decide, by decide, fun _ _ => rfl⟩

/-- A transition that stores: PHA. -/
theorem witness_MemoryChangesOnlyByWriteCalls :
    ∃ t, transition .step (load [0x48] [] { start with a := 0x42 }) = .next t ∧ writes t = [(0x01FD, 0x42)] :=
  ⟨_, rfl, by decide⟩

/-- Clauses with 0 and 3 writes, and both sides of the clause for IRQ and of the one for NMI. -/
theorem witness_WriteCallsAreFixedByTheOpcode :
    (runs.t ≠ 0xFF ∧ decode [runs.peek runs.pc, runs.peek (runs.pc + 1), runs.peek (runs.pc + 2)] =
      .ok (.lda (.imm 0x80), [0x00]) ∧ ∃ t, step runs = .next t) ∧
    (∃ t, step start = .next t ∧ decode [start.peek start.pc, 0x00, 0x00] = .ok (.brk, [0x00, 0x00])) ∧
    start.t ≠ 0xFF ∧ start.flag .I = false ∧ jammedState.t = 0xFF :=
  ⟨⟨by decide, rfl, _, rfl⟩, ⟨_, rfl, rfl⟩, by decide, by decide, by decide⟩

theorem witness_OnlyTheJamCheckReadsT : start.t ≠ 0xFF ∧ (0xFE : Byte) ≠ 0xFF ∧ start.flag .I = false := by decide

/-- An instruction that writes none of the four registers, and one that writes no flag but N and Z. -/
theorem witness_RegistersAreWrittenOnlyAsListed :
    let s := load [0xEA] [] start
    s.t ≠ 0xFF ∧ decode [s.peek s.pc, s.peek (s.pc + 1), s.peek (s.pc + 2)] = .ok (.nop, [0x00, 0x00]) ∧
    (∃ t, step s = .next t) ∧ Instr.nop.writesA = false ∧ Instr.nop.writesX = false ∧ Instr.nop.writesY = false ∧
    Instr.nop.writesSp = false := ⟨by decide, rfl, ⟨_, rfl⟩, rfl, rfl, rfl, rfl⟩

theorem witness_FlagsAreWrittenOnlyAsListed :
    runs.t ≠ 0xFF ∧ decode [runs.peek runs.pc, runs.peek (runs.pc + 1), runs.peek (runs.pc + 2)] =
      .ok (.lda (.imm 0x80), [0x00]) ∧ (∃ t, step runs = .next t) ∧
    (Instr.lda (.imm 0x80)).writesFlag .C = false ∧ Flag.D ≠ .I ∧ Flag.D ≠ .U ∧ ∃ t, transition .reset runs = .next t :=
  ⟨by decide, rfl, ⟨_, rfl⟩, rfl, by decide, by decide, _, rfl⟩

/-- Another memory that agrees on the one address a NOP reads. -/
theorem witness_TransitionsDependOnlyOnWhatTheyRead :
    let s := load [0xEA] [] start
    ∃ t, transition .step s = .next t ∧ t.bus = [.read 0x0200] ∧
      ∃ m : Memory, m ≠ s.mem ∧ ∀ a, Access.read a ∈ t.bus → m.read a.toNat = s.peek a := by
  refine ⟨_, rfl, by decide, [(512, 0xEA), (513, 0x01)], by decide, fun a ha => ?_⟩
  have hb : Access.read a ∈ [Access.read 0x0200] := ha
  have : a = 0x0200 := by simpa using hb
  subst this
  decide

/-- Every form of every list has an operand: for LoadsSetRegisterAndNZ, StoresWriteOneByte, ComparesSetNZC,
IncDecChangeOneByte, LogicIsBitwise, BitTestsMemory, ShiftsMoveOneBit, RotatesGoThroughCarry and the statements of ADC
and SBC. -/
theorem witness_forms :
    (∀ f ∈ ldaForms ++ ldxForms ++ ldyForms ++ adcForms ++ sbcForms ++ cmpForms ++ cpxForms ++ cpyForms ++ andForms ++
      oraForms ++ eorForms, (sampleSource f.mode).mode = f.mode) ∧
    (∀ f ∈ staForms ++ stxForms ++ styForms ++ incForms ++ decForms ++ bitForms ++ aslForms ++ lsrForms ++ rolForms ++
      rorForms, (sampleAddress f.mode).mode = f.mode) := by decide

/-- A byte outside the one pushed, at each end of the stack page. -/
theorem witness_StackStaysInItsPage :
    255 < 65536 ∧ 255 ≠ 256 + (0x00 : Byte).toNat ∧ 512 < 65536 ∧ 512 ≠ 256 + (0xFF : Byte).toNat := by decide

/-- D clear for the binary statements, D set for the decimal ones, with each value of the parameters they read. -/
theorem witness_AdcBinaryAddsWithCarry :
    (sampleSource .indY).mode = Mode.indY ∧ (adcForms.map Form.mode).contains .indY = true ∧ start.flag .D = false := by
  decide

theorem witness_SbcBinarySubtractsWithBorrow :
    (sampleSource .imm).mode = Mode.imm ∧ (sbcForms.map Form.mode).contains .imm = true ∧ start.flag .D = false := by
  decide

/-- D set, `DECIMAL_FLAGS = doc` and `SBC_ARG_BUG = fixed`; A holds the largest decimal number. -/
def decimalDoc : State := { start with a := 0x99, p := 0x29 }

/-- D set and `DECIMAL_FLAGS = nmos`. -/
def decimalNmos : State := { start with a := 0x99, p := 0x29, cfg := { decimalFlags := .nmos } }

/-- D set and `SBC_ARG_BUG = unconstrained`. -/
def decimalFree : State := { start with a := 0x99, p := 0x29, cfg := { sbcArgBug := .unconstrained } }

theorem witness_AdcDecimalFollowsTheNibbles :
    decimalDoc.flag .D = true ∧ decimalDoc.cfg.decimalFlags = .doc ∧ decimalNmos.flag .D = true ∧
    decimalNmos.cfg.decimalFlags = .nmos ∧ (adcForms.map Form.mode).contains (sampleSource .imm).mode = true := by decide

theorem witness_SbcDecimalFollowsTheNibbles :
    decimalDoc.flag .D = true ∧ decimalDoc.cfg.sbcArgBug = .fixed ∧ decimalNmos.flag .D = true ∧
    decimalNmos.cfg.sbcArgBug = .fixed ∧ (sbcForms.map Form.mode).contains (sampleSource .imm).mode = true := by decide

theorem witness_SbcUnconstrainedCompletes :
    decimalFree.flag .D = true ∧ decimalFree.cfg.sbcArgBug = .unconstrained ∧
    (sbcForms.map Form.mode).contains (sampleSource .indX).mode = true := by decide

/-- `$99 + $99` with a carry, and `$99 - $99` without a borrow: both operands are decimal numbers at their largest. -/
theorem witness_decimal_numbers :
    isBcd decimalDoc.a ∧ isBcd (valueOf (.imm 0x99) decimalDoc) ∧ decimalDoc.flag .D = true ∧
    decimalDoc.cfg.sbcArgBug = .fixed ∧ (∃ t, exec (.adc (.imm 0x99)) decimalDoc = .next t) ∧
    ∃ t, exec (.sbc (.imm 0x99)) decimalDoc = .next t :=
  ⟨⟨by decide, by decide⟩, ⟨by decide, by decide⟩, by decide, by decide, ⟨_, rfl⟩, _, rfl⟩

/-- Both sides of both clauses: `$7F + 1` and `$80 - 1` overflow, `$01 + 1` and `$01 - 1` do not. -/
theorem witness_OverflowIsSignedOverflow :
    let s : State := { start with a := 0x7F }
    let r : State := { start with a := 0x80, p := 0x21 }
    s.flag .D = false ∧ (∃ t, exec (.adc (.imm 0x01)) s = .next t ∧ t.flag .V = true) ∧
    (∃ t, exec (.adc (.imm 0x01)) { start with a := 0x01 } = .next t ∧ t.flag .V = false) ∧
    r.flag .D = false ∧ (∃ t, exec (.sbc (.imm 0x01)) r = .next t ∧ t.flag .V = true) ∧
    (∃ t, exec (.sbc (.imm 0x01)) { start with a := 0x01, p := 0x21 } = .next t ∧ t.flag .V = false) :=
  ⟨by decide, ⟨_, rfl, by decide⟩, ⟨_, rfl, by decide⟩, by decide, ⟨_, rfl, by decide⟩, ⟨_, rfl, by decide⟩⟩

/-- At the wrap of S. -/
theorem witness_ReturnUndoesCall :
    let s : State := { start with sp := 0x00 }
    ∃ t u, exec (.jsr 0xFFFF) s = .next t ∧ exec .rts t = .next u := ⟨_, _, rfl, rfl⟩

/-- At the wrap of S, one witness for each clause. -/
theorem witness_RtiUndoesEntry :
    let s : State := { start with sp := 0x01 }
    (∃ t u, exec .brk s = .next t ∧ exec .rti t = .next u) ∧
    (s.t ≠ 0xFF ∧ s.flag .I = false ∧ ∃ u, exec .rti (irq s) = .next u) ∧ (∃ u, exec .rti (nmi s) = .next u) ∧
    Flag.D ≠ .B ∧ Flag.D ≠ .U :=
  ⟨⟨_, _, rfl, rfl⟩, ⟨by decide, by decide, _, rfl⟩, ⟨_, rfl⟩, by decide, by decide⟩

/-- The first and the last invalid opcode, and a Step that fetches one. -/
theorem witness_InvalidOpcodeHalts :
    (0x02 : Byte) ∈ invalidOpcodes ∧ (0xFF : Byte) ∈ invalidOpcodes ∧ jams.t ≠ 0xFF ∧
    jams.peek jams.pc ∈ invalidOpcodes := by decide

/-- Jammed; I set; neither. -/
theorem witness_IrqEntersOrIsSkipped :
    jammedState.t = 0xFF ∧ ({ start with p := 0x24 } : State).flag .I = true ∧ start.t ≠ 0xFF ∧
    start.flag .I = false := by decide

theorem witness_NmiAlwaysEnters : jammedState.t = 0xFF ∧ ({ start with t := 0xFE } : State).t ≠ 0xFF := by decide

end Sys2Proof.Tests
end

section
/-! SUPPORT. A transition reaches memory only through its callback calls (R40, R41): an operation is `Local` when its
calls alone say what becomes of memory, and when another memory that agrees on every byte it reads gives the same value,
the same registers and the same calls. The callbacks are local and so is what is composed of local operations, so every
transition is. -/

namespace Sys2Proof.Machine

/-! ### Replaying calls -/

@[simp] theorem replay_nil (m : Memory) : replay m [] = m := rfl

@[simp] theorem replay_append (m : Memory) (calls calls' : List Access) :
    replay m (calls ++ calls') = replay (replay m calls) calls' := List.foldl_append

/-- Write calls keep the canonical form: their addresses are words. -/
theorem replay_wf {m : Memory} (calls : List Access) (h : m.wf = true) : (replay m calls).wf = true := by
  induction calls generalizing m with
  | nil => exact h
  | cons c calls ih =>
    cases c with
    | read a => exact ih h
    | write a v => exact ih (write_wf m _ v (word_lt_size a) h)

/-- The same calls keep two memories alike at an address where they are alike. -/
theorem read_replay_congr {m m' : Memory} {n : Nat} (calls : List Access) (h : m.read n = m'.read n) :
    (replay m calls).read n = (replay m' calls).read n := by
  induction calls generalizing m m' with
  | nil => exact h
  | cons c calls ih =>
    cases c with
    | read a => exact ih h
    | write a v => exact ih (by simp only [read_write, h])

/-! ### Local operations -/

/-- Memory `m` holds what `s` holds at every address that the calls read. -/
def AgreesOn (m : Memory) (s : State) (calls : List Access) : Prop :=
  ∀ a, Access.read a ∈ calls → m.read a.toNat = s.peek a

theorem AgreesOn.left {m : Memory} {s : State} {calls calls' : List Access} (h : AgreesOn m s (calls ++ calls')) :
    AgreesOn m s calls := fun a ha => h a (List.mem_append_left _ ha)

/-- Agreement on the later of two groups of calls still holds after the earlier group. -/
theorem AgreesOn.after {m : Memory} {s u : State} {calls calls' : List Access} (h : AgreesOn m s (calls ++ calls'))
    (hu : u.mem = replay s.mem calls) : AgreesOn (replay m calls) u calls' := by
  intro a ha
  have hread : m.read a.toNat = s.mem.read a.toNat := h a (List.mem_append_right _ ha)
  rw [State.peek, hu]
  exact read_replay_congr calls hread

/-- The calls lead from `s` to `t`: the access list grows by them and memory changes by them alone. -/
def Leads (calls : List Access) (s t : State) : Prop := t.bus = s.bus ++ calls ∧ t.mem = replay s.mem calls

theorem Leads.trans {calls calls' : List Access} {s u t : State} (h : Leads calls s u) (h' : Leads calls' u t) :
    Leads (calls ++ calls') s t := by
  obtain ⟨hbus, hmem⟩ := h
  obtain ⟨hbus', hmem'⟩ := h'
  exact ⟨by rw [hbus', hbus, List.append_assoc], by rw [hmem', hmem, replay_append]⟩

/-- An operation that gives a value and a state is local: some calls lead to its state, and on a memory that agrees on
their reads it gives the same value and makes the same calls. -/
def Local {α : Type} (op : State → α × State) : Prop :=
  ∀ s, ∃ calls, Leads calls s (op s).2 ∧
    ∀ m, AgreesOn m s calls → op (s.setMem m) = ((op s).1, (op s).2.setMem (replay m calls))

/-- The same of a meaning, wherever it gives a next state. -/
def LocalMeaning (F : State → Host.Outcome State Fault Refusal) : Prop :=
  ∀ s t, F s = .next t → ∃ calls, Leads calls s t ∧
    ∀ m, AgreesOn m s calls → F (s.setMem m) = .next (t.setMem (replay m calls))

section
variable {α β : Type}

/-- An update of registers reads no memory and makes no call. -/
theorem Local.update (value : State → α) (f : State → State)
    (hv : ∀ s m, value (s.setMem m) = value s := by intros; rfl)
    (hf : ∀ s m l, f ((s.setMem m).setBus l) = ((f s).setMem m).setBus l := by intros; rfl) :
    Local fun s => (value s, f s) := by
  intro s
  have hs : f s = ((f s).setMem s.mem).setBus s.bus := hf s s.mem s.bus
  have hm : ∀ m, f (s.setMem m) = (f s).setMem m :=
    fun m => (hf s m s.bus).trans (congrArg (State.setMem · m) hs).symm
  refine ⟨[], ⟨?_, ?_⟩, fun m _ => ?_⟩
  · simpa using congrArg State.bus hs
  · simpa using congrArg State.mem hs
  · simp [hv, hm]

/-- One operation after another is local when each is, whatever value the first gives. -/
theorem Local.bind {op : State → α × State} {next : α → State → β × State} (hop : Local op)
    (hnext : ∀ v, Local (next v)) : Local fun s => next (op s).1 (op s).2 := by
  intro s
  obtain ⟨calls, hleads, hsame⟩ := hop s
  obtain ⟨calls', hleads', hsame'⟩ := hnext (op s).1 (op s).2
  refine ⟨calls ++ calls', hleads.trans hleads', fun m hm => ?_⟩
  simp only [hsame m hm.left, hsame' _ (hm.after hleads.2), replay_append]

/-- A meaning after an operation is local when both are. -/
theorem Local.bindMeaning {op : State → α × State} {F : α → State → Host.Outcome State Fault Refusal} (hop : Local op)
    (hF : ∀ v, LocalMeaning (F v)) : LocalMeaning fun s => F (op s).1 (op s).2 := by
  intro s t ht
  obtain ⟨calls, hleads, hsame⟩ := hop s
  obtain ⟨calls', hleads', hsame'⟩ := hF _ _ _ ht
  refine ⟨calls ++ calls', hleads.trans hleads', fun m hm => ?_⟩
  simp only [hsame m hm.left, replay_append]
  exact hsame' _ (hm.after hleads.2)

/-- An operation may also look at the registers of the state it starts from. -/
theorem Local.ofRegisters {op : State → State → α × State} (hop : ∀ r, Local (op r))
    (hreg : ∀ r m u, op (r.setMem m) u = op r u := by intros; rfl) : Local fun s => op s s := by
  intro s
  obtain ⟨calls, hleads, hsame⟩ := hop s s
  exact ⟨calls, hleads, fun m hm => (hreg s m _).trans (hsame m hm)⟩

/-- So may a meaning. -/
theorem LocalMeaning.ofRegisters {F : State → State → Host.Outcome State Fault Refusal} (hF : ∀ r, LocalMeaning (F r))
    (hreg : ∀ r m u, F (r.setMem m) u = F r u := by intros; rfl) : LocalMeaning fun s => F s s := by
  intro s t ht
  obtain ⟨calls, hleads, hsame⟩ := hF s s t ht
  exact ⟨calls, hleads, fun m hm => (hreg s m _).trans (hsame m hm)⟩

/-- A local operation as a meaning that always answers. -/
theorem Local.next {op : State → α × State} (hop : Local op) : LocalMeaning fun s => .next (op s).2 := by
  intro s t ht
  obtain ⟨calls, hleads, hsame⟩ := hop s
  obtain rfl : (op s).2 = t := by simpa using ht
  exact ⟨calls, hleads, fun m hm => by simp only [hsame m hm]⟩

/-- A meaning that never answers a state. -/
theorem LocalMeaning.ofRefused {F : State → Host.Outcome State Fault Refusal} (why : Refusal)
    (hF : ∀ s, F s = .refused why) : LocalMeaning F := fun s t ht => by simp [hF] at ht

/-- A meaning that a check of the registers skips. -/
theorem LocalMeaning.skipIf {F : State → Host.Outcome State Fault Refusal} (hF : LocalMeaning F) (c : State → Bool)
    (hc : ∀ s m, c (s.setMem m) = c s := by intros; rfl) : LocalMeaning fun s => if c s then .next s else F s := by
  intro s t ht
  cases hcs : c s with
  | true =>
    obtain rfl : s = t := by simpa [hcs] using ht
    exact ⟨[], ⟨(List.append_nil _).symm, rfl⟩, fun m _ => by simp [hc, hcs]⟩
  | false => simpa [hc, hcs] using hF s t (by simpa [hcs] using ht)

end

/-! ### The shared operations are local

Each proof below follows its operation's definition, access by access. A proof written `(… :)` is read on its own before
it meets the statement, so that the operation it composes is known when the two are compared. -/

theorem memRead_local (a : Word) : Local (memRead a) := by
  intro s
  refine ⟨[.read a], ⟨rfl, rfl⟩, fun m hm => ?_⟩
  have hread : m.read a.toNat = s.peek a := hm a (by simp)
  simp only [memRead, setMem_peek, hread]
  rfl

theorem memWrite_local (a : Word) (v : Byte) : Local fun s => ((), memWrite a v s) :=
  fun _ => ⟨[.write a v], ⟨rfl, rfl⟩, fun _ _ => rfl⟩

theorem read16_local (a : Word) : Local (read16 a) :=
  ((memRead_local a).bind fun lo => (memRead_local (a + 1)).bind fun hi =>
    Local.update (fun _ => joinBytes hi lo) id :)

theorem readZP16_local (z : Byte) : Local (readZP16 z) :=
  ((memRead_local (zeroPage z)).bind fun lo => (memRead_local (zeroPage (z + 1))).bind fun hi =>
    Local.update (fun _ => joinBytes hi lo) id :)

theorem push_local (v : Byte) : Local fun s => ((), push v s) :=
  .ofRegisters (op := fun r u => ((), (memWrite (stackAddr r.sp) v u).setSp (r.sp - 1))) fun r =>
    ((memWrite_local (stackAddr r.sp) v).bind fun _ => Local.update (fun _ => ()) (State.setSp · (r.sp - 1)) :)

theorem pull_local : Local pull :=
  .ofRegisters (op := fun r u => memRead (stackAddr (r.sp + 1)) (u.setSp (r.sp + 1))) fun r =>
    ((Local.update (fun _ => ()) (State.setSp · (r.sp + 1))).bind fun _ => memRead_local (stackAddr (r.sp + 1)) :)

theorem pushWord_local (w : Word) : Local fun s => ((), pushWord w s) :=
  ((push_local (hiByte w)).bind fun _ => push_local (loByte w) :)

theorem pullWord_local : Local pullWord :=
  (pull_local.bind fun lo => pull_local.bind fun hi => Local.update (fun _ => joinBytes hi lo) id :)

theorem enter_local (vector ret : Word) (pushed : Byte) : Local fun s => ((), enter vector ret pushed s) :=
  ((pushWord_local ret).bind fun _ => (push_local pushed).bind fun _ =>
    (Local.update (fun _ => ()) (State.setFlag · .I true)).bind fun _ =>
      (read16_local vector).bind fun pc => Local.update (fun _ => ()) (State.setPc · pc) :)

theorem returnFromInterrupt_local : Local fun s => ((), returnFromInterrupt s) :=
  (pull_local.bind fun v =>
    (Local.update (fun _ => ()) fun u => u.setP (pullP u.cfg.pullP v)).bind fun _ =>
      pullWord_local.bind fun pc => Local.update (fun _ => ()) (State.setPc · pc) :)

/-- The opcode and as many bytes after it as it has operand bytes select the fetched instruction (R60, R80). -/
theorem fetch_instr (s : State) :
    (fetch s).instr = decodeOp (s.peek s.pc)
      (if 1 ≤ operandCount (s.peek s.pc) then s.peek (s.pc + 1) else 0)
      (if 2 ≤ operandCount (s.peek s.pc) then s.peek (s.pc + 2) else 0) := by
  unfold fetch
  simp only [memRead_value, memRead_state, setBus_peek]
  split
  · next h => simp [h]
  · next h => simp [h]
  · next h0 h1 =>
    have h2 : 2 ≤ operandCount (s.peek s.pc) := by
      have : operandCount (s.peek s.pc) ≠ 0 := h0
      have : operandCount (s.peek s.pc) ≠ 1 := h1
      omega
    have h1 : 1 ≤ operandCount (s.peek s.pc) := by omega
    simp [h1, h2]

@[simp] theorem replay_fetchReads (m : Memory) (pc : Word) (n : Nat) : replay m (fetchReads pc n) = m := by
  unfold fetchReads
  split <;> split <;> rfl

/-- A fetch depends on the bytes it reads and on no other. -/
theorem fetch_local : Local fun s => ((fetch s).instr, (fetch s).state) := by
  intro s
  refine ⟨fetchReads s.pc (operandCount (s.peek s.pc)), ?_, fun m hm => ?_⟩
  · simp [Leads, fetch_state]
  · have hop : m.read s.pc.toNat = s.peek s.pc := hm _ (by simp [fetchReads])
    have hb1 : 1 ≤ operandCount (s.peek s.pc) → m.read (s.pc + 1).toNat = s.peek (s.pc + 1) :=
      fun h => hm _ (by simp [fetchReads, h])
    have hb2 : 2 ≤ operandCount (s.peek s.pc) → m.read (s.pc + 2).toNat = s.peek (s.pc + 2) :=
      fun h => hm _ (by simp [fetchReads, h])
    simp +contextual only [fetch_instr, fetch_state, setMem_pc, setMem_bus, setMem_peek, hop, hb1, hb2,
      replay_fetchReads]
    rfl

/-! ### Operands are local -/

theorem resolve_local (m : Address) :
    Local fun s => (((resolve m s).ea, (resolve m s).cross), (resolve m s).state) := by
  cases m with
  | zp z => exact Local.update (fun _ => (zeroPage z, false)) id
  | zpX z => exact Local.update (fun s => (zeroPage (z + s.x), false)) id
  | zpY z => exact Local.update (fun s => (zeroPage (z + s.y), false)) id
  | abs a => exact Local.update (fun _ => (a, false)) id
  | absX a => exact Local.update (fun s => ((indexed a s.x s).ea, (indexed a s.x s).cross)) id
  | absY a => exact Local.update (fun s => ((indexed a s.y s).ea, (indexed a s.y s).cross)) id
  | indX z =>
    exact .ofRegisters (op := fun r u => (((readZP16 (z + r.x) u).1, false), (readZP16 (z + r.x) u).2)) fun r =>
      ((readZP16_local (z + r.x)).bind fun p => Local.update (fun _ => (p, false)) id :)
  | indY z =>
    exact ((readZP16_local z).bind fun p =>
      Local.update (fun s => ((indexed p s.y s).ea, (indexed p s.y s).cross)) id :)

theorem loadAddress_local (m : Address) :
    Local fun s => (((loadAddress m s).value, (loadAddress m s).cross), (loadAddress m s).state) :=
  ((resolve_local m).bind fun r => (memRead_local r.1).bind fun v => Local.update (fun _ => (v, r.2)) id :)

theorem loadSource_local (o : Source) :
    Local fun s => (((loadSource o s).value, (loadSource o s).cross), (loadSource o s).state) := by
  cases o with
  | imm v => exact Local.update (fun _ => (v, false)) id
  | mem m => exact loadAddress_local m

theorem storeAddress_local (m : Address) (v : Byte) :
    Local fun s => ((storeAddress m v s).cross, (storeAddress m v s).state) :=
  ((resolve_local m).bind fun r => (memWrite_local r.1 v).bind fun _ => Local.update (fun _ => r.2) id :)

theorem modifyAddress_local (m : Address) (f : Byte → Byte) :
    Local fun s => (((modifyAddress m f s).old, (modifyAddress m f s).cross), (modifyAddress m f s).state) :=
  ((resolve_local m).bind fun r => (memRead_local r.1).bind fun v => (memWrite_local r.1 (f v)).bind fun _ =>
    Local.update (fun _ => (v, r.2)) id :)

theorem modifyTarget_local (t : Target) (f : Byte → Byte) :
    Local fun s => (((modifyTarget t f s).old, (modifyTarget t f s).cross), (modifyTarget t f s).state) := by
  cases t with
  | acc => exact Local.update (fun s => (s.a, false)) fun s => s.setA (f s.a)
  | mem m => exact modifyAddress_local m f

/-! ### The meaning of every instruction is local -/

theorem advance_local (i : Instr) : Local fun s => ((), advance i s) := Local.update (fun _ => ()) (advance i)

/-- The end of an instruction sets T and accesses nothing. -/
theorem complete_local (i : Instr) (cross : Bool) : LocalMeaning (complete i cross) := by
  cases hop : i.opcode with
  | none => exact .ofRefused .noEncoding (complete_of_none hop cross)
  | some op =>
    have hF : complete i cross = fun s => .next (s.setT (cycles op cross)) := funext (complete_of_opcode hop cross)
    rw [hF]
    exact (Local.update (fun _ => ()) (State.setT · (cycles op cross))).next

/-! One lemma per shape of a meaning: what it accesses, and which registers it may look at. -/

section
variable (i : Instr)

/-- An instruction that ends with an update of registers after a local operation. -/
theorem Local.thenComplete {α : Type} {op : State → α × State} (hop : Local op) (cross : α → Bool)
    (g : α → State → State)
    (hg : ∀ v u m l, g v ((u.setMem m).setBus l) = ((g v u).setMem m).setBus l := by intros; rfl) :
    LocalMeaning fun s => complete i (cross (op s).1) (g (op s).1 (op s).2) :=
  hop.bindMeaning (F := fun v u => complete i (cross v) (g v u)) fun v =>
    (Local.update (fun _ => ()) (g v) (fun _ _ => rfl) (hg v)).bindMeaning fun _ => complete_local i (cross v)

/-- An instruction that accesses nothing. -/
theorem registers_local (g : State → State)
    (hg : ∀ u m l, g ((u.setMem m).setBus l) = ((g u).setMem m).setBus l := by intros; rfl) :
    LocalMeaning fun s => complete i false (g s) :=
  Local.thenComplete i (Local.update (fun _ => ()) id) (fun _ => false) (fun _ => g) fun _ => hg

/-- An instruction that reads its operand; what it then does may depend on the registers it began with. -/
theorem load_local (o : Source) (g : State → Byte → State → State)
    (hreg : ∀ r m, g (r.setMem m) = g r := by intros; rfl)
    (hg : ∀ r v u m l, g r v ((u.setMem m).setBus l) = ((g r v u).setMem m).setBus l := by intros; rfl) :
    LocalMeaning fun s =>
      complete i (loadSource o (advance i s)).cross
        (g s (loadSource o (advance i s)).value (loadSource o (advance i s)).state) :=
  .ofRegisters
    (F := fun r s => complete i (loadSource o (advance i s)).cross
      (g r (loadSource o (advance i s)).value (loadSource o (advance i s)).state))
    (fun r => Local.thenComplete i ((advance_local i).bind fun _ => loadSource_local o) Prod.snd (fun v => g r v.1)
      fun v => hg r v.1)
    fun r m u => by simp only [hreg]

/-- An instruction that stores a byte of the registers. -/
theorem store_local (m : Address) (v : State → Byte) (hv : ∀ r mem, v (r.setMem mem) = v r := by intros; rfl) :
    LocalMeaning fun s =>
      complete i (storeAddress m (v s) (advance i s)).cross (storeAddress m (v s) (advance i s)).state :=
  .ofRegisters
    (F := fun r s => complete i (storeAddress m (v r) (advance i s)).cross (storeAddress m (v r) (advance i s)).state)
    (fun r => Local.thenComplete i ((advance_local i).bind fun _ => storeAddress_local m (v r)) id fun _ => id)
    fun r mem u => by simp only [hv]

/-- An instruction that reads an operand and writes it back; both steps may depend on the registers it began with. -/
theorem modify_local (t : Target) (f : State → Byte → Byte) (g : State → Byte → State → State)
    (hf : ∀ r m, f (r.setMem m) = f r := by intros; rfl)
    (hreg : ∀ r m, g (r.setMem m) = g r := by intros; rfl)
    (hg : ∀ r v u m l, g r v ((u.setMem m).setBus l) = ((g r v u).setMem m).setBus l := by intros; rfl) :
    LocalMeaning fun s =>
      complete i (modifyTarget t (f s) (advance i s)).cross
        (g s (modifyTarget t (f s) (advance i s)).old (modifyTarget t (f s) (advance i s)).state) :=
  .ofRegisters
    (F := fun r s => complete i (modifyTarget t (f r) (advance i s)).cross
      (g r (modifyTarget t (f r) (advance i s)).old (modifyTarget t (f r) (advance i s)).state))
    (fun r => Local.thenComplete i ((advance_local i).bind fun _ => modifyTarget_local t (f r)) Prod.snd
      (fun v => g r v.1) fun v => hg r v.1)
    fun r m u => by simp only [hf, hreg]

/-- An instruction that pushes a byte of the registers. -/
theorem pushes_local (v : State → Byte) (hv : ∀ r m, v (r.setMem m) = v r := by intros; rfl) :
    LocalMeaning fun s => complete i false (push (v s) (advance i s)) :=
  .ofRegisters (F := fun r s => complete i false (push (v r) (advance i s)))
    (fun r => Local.thenComplete i ((advance_local i).bind fun _ => push_local (v r)) (fun _ => false) fun _ => id)
    fun r m u => by simp only [hv]

/-- A branch accesses nothing. -/
theorem branch_local (off : Byte) (taken : State → Bool) (ht : ∀ r m, taken (r.setMem m) = taken r := by intros; rfl) :
    LocalMeaning fun s => branch i off (taken s) s := by
  refine .ofRegisters (F := fun r => branch i off (taken r)) (fun r => ?_) fun r m u => by rw [ht]
  cases hop : i.opcode with
  | none => exact .ofRefused .noEncoding fun s => by simp only [branch, hop]
  | some op =>
    have hF : branch i off (taken r) = fun s => .next
        ((if taken r then (advance i s).setPc (branchTarget off (advance i s).pc) else advance i s).setT
          (branchCycles (taken r) (crosses (advance i s).pc (branchTarget off (advance i s).pc)))) :=
      funext fun s => by simp only [branch, hop]
    rw [hF]
    exact (Local.update (fun _ => ()) _ (fun _ _ => rfl) fun _ _ _ => by cases taken r <;> rfl).next

end

theorem execJam_local (op : Byte) : LocalMeaning (execJam op) := by
  cases hop : (Instr.jam op).opcode with
  | none => exact .ofRefused .noEncoding fun s => by simp only [execJam, hop]
  | some op' =>
    have hF : execJam op = fun s => .next (halt s) := funext fun s => by simp only [execJam, hop]
    rw [hF]
    exact (Local.update (fun _ => ()) halt (fun _ _ => rfl) fun s m l => by simp only [halt_eq]; rfl).next

/-- Every instruction's meaning has one of these shapes. -/
theorem exec_local (i : Instr) : LocalMeaning (exec i) := by
  cases i with
  | lda o => exact load_local (.lda o) o fun _ v u => (u.setA v).setNZ v
  | ldx o => exact load_local (.ldx o) o fun _ v u => (u.setX v).setNZ v
  | ldy o => exact load_local (.ldy o) o fun _ v u => (u.setY v).setNZ v
  | sta m => exact store_local (.sta m) m State.a
  | stx m => exact store_local (.stx m) m State.x
  | sty m => exact store_local (.sty m) m State.y
  | tax => exact registers_local .tax fun s => ((advance .tax s).setX s.a).setNZ s.a
  | tay => exact registers_local .tay fun s => ((advance .tay s).setY s.a).setNZ s.a
  | txa => exact registers_local .txa fun s => ((advance .txa s).setA s.x).setNZ s.x
  | tya => exact registers_local .tya fun s => ((advance .tya s).setA s.y).setNZ s.y
  | tsx => exact registers_local .tsx fun s => ((advance .tsx s).setX s.sp).setNZ s.sp
  | txs => exact registers_local .txs fun s => (advance .txs s).setSp s.x
  | pha => exact pushes_local .pha State.a
  | php => exact pushes_local .php fun s => pushedByInstruction s.p
  | pla =>
    exact Local.thenComplete .pla ((advance_local .pla).bind fun _ => pull_local) (fun _ => false) fun v u =>
      (u.setA v).setNZ v
  | plp =>
    exact Local.thenComplete .plp ((advance_local .plp).bind fun _ => pull_local) (fun _ => false) fun v u =>
      u.setP (pullP u.cfg.pullP v)
  | adc o =>
    exact load_local (.adc o) o fun r v u => u.setAlu <|
      if r.flag .D then adcDecimal r.cfg.decimalFlags r.a v (r.flag .C) else adcBinary r.a v (r.flag .C)
  | sbc o => exact load_local (.sbc o) o fun r v u => (u.setAlu (sbcResult v r)).setDraws (r.draws + sbcDraws r)
  | cmp o => exact load_local (.cmp o) o fun r v u => u.setCompare r.a v
  | cpx o => exact load_local (.cpx o) o fun r v u => u.setCompare r.x v
  | cpy o => exact load_local (.cpy o) o fun r v u => u.setCompare r.y v
  | inc m => exact modify_local (.inc m) (.mem m) (fun _ v => v + 1) fun _ v u => u.setNZ (v + 1)
  | dec m => exact modify_local (.dec m) (.mem m) (fun _ v => v - 1) fun _ v u => u.setNZ (v - 1)
  | inx => exact registers_local .inx fun s => ((advance .inx s).setX (s.x + 1)).setNZ (s.x + 1)
  | iny => exact registers_local .iny fun s => ((advance .iny s).setY (s.y + 1)).setNZ (s.y + 1)
  | dex => exact registers_local .dex fun s => ((advance .dex s).setX (s.x - 1)).setNZ (s.x - 1)
  | dey => exact registers_local .dey fun s => ((advance .dey s).setY (s.y - 1)).setNZ (s.y - 1)
  | and o => exact load_local (.and o) o fun r v u => (u.setA (r.a &&& v)).setNZ (r.a &&& v)
  | ora o => exact load_local (.ora o) o fun r v u => (u.setA (r.a ||| v)).setNZ (r.a ||| v)
  | eor o => exact load_local (.eor o) o fun r v u => (u.setA (r.a ^^^ v)).setNZ (r.a ^^^ v)
  | bit m => exact load_local (.bit m) (.mem m) fun _ v u => u.setBitTest v
  | asl t => exact modify_local (.asl t) t (fun _ v => (shiftLeft v).value) fun _ v u => u.setShift (shiftLeft v)
  | lsr t => exact modify_local (.lsr t) t (fun _ v => (shiftRight v).value) fun _ v u => u.setShift (shiftRight v)
  | rol t =>
    exact modify_local (.rol t) t (fun r v => (rotateLeft (r.flag .C) v).value) fun r v u =>
      u.setShift (rotateLeft (r.flag .C) v)
  | ror t =>
    exact modify_local (.ror t) t (fun r v => (rotateRight (r.flag .C) v).value) fun r v u =>
      u.setShift (rotateRight (r.flag .C) v)
  | jmp a => exact registers_local (.jmp a) (State.setPc · a)
  | jmpInd ptr =>
    refine .ofRegisters (F := fun r s =>
      let lo := memRead ptr s
      let hi := memRead (indirectHigh r.cfg.jmpIndWrap ptr) lo.2
      complete (.jmpInd ptr) false (hi.2.setPc (joinBytes hi.1 lo.1))) fun r => ?_
    exact ((memRead_local ptr).bindMeaning fun lo =>
      Local.thenComplete (.jmpInd ptr) (memRead_local (indirectHigh r.cfg.jmpIndWrap ptr)) (fun _ => false) fun hi u =>
        u.setPc (joinBytes hi lo) :)
  | jsr a =>
    exact .ofRegisters (F := fun r s => complete (.jsr a) false ((pushWord (r.pc + 2) s).setPc a)) fun r =>
      Local.thenComplete (.jsr a) (pushWord_local (r.pc + 2)) (fun _ => false) fun _ u => u.setPc a
  | rts => exact Local.thenComplete .rts pullWord_local (fun _ => false) fun w u => u.setPc (w + 1)
  | bcc off => exact branch_local (.bcc off) off fun s => !s.flag .C
  | bcs off => exact branch_local (.bcs off) off fun s => s.flag .C
  | beq off => exact branch_local (.beq off) off fun s => s.flag .Z
  | bne off => exact branch_local (.bne off) off fun s => !s.flag .Z
  | bmi off => exact branch_local (.bmi off) off fun s => s.flag .N
  | bpl off => exact branch_local (.bpl off) off fun s => !s.flag .N
  | bvc off => exact branch_local (.bvc off) off fun s => !s.flag .V
  | bvs off => exact branch_local (.bvs off) off fun s => s.flag .V
  | brk =>
    exact .ofRegisters
      (F := fun r s => complete .brk false (enter irqVector (r.pc + 2) (pushedByInstruction r.p) s)) fun r =>
      Local.thenComplete .brk (enter_local irqVector (r.pc + 2) (pushedByInstruction r.p)) (fun _ => false) fun _ => id
  | rti => exact Local.thenComplete .rti returnFromInterrupt_local (fun _ => false) fun _ => id
  | clc => exact registers_local .clc fun s => (advance .clc s).setFlag .C false
  | sec => exact registers_local .sec fun s => (advance .sec s).setFlag .C true
  | cli => exact registers_local .cli fun s => (advance .cli s).setFlag .I false
  | sei => exact registers_local .sei fun s => (advance .sei s).setFlag .I true
  | cld => exact registers_local .cld fun s => (advance .cld s).setFlag .D false
  | sed => exact registers_local .sed fun s => (advance .sed s).setFlag .D true
  | clv => exact registers_local .clv fun s => (advance .clv s).setFlag .V false
  | nop => exact registers_local .nop (advance .nop)
  | jam op => exact execJam_local op

/-! ### Every transition is local -/

/-- Taking an interrupt: the entry sequence and the count of R245. -/
theorem interrupt_local (vector : Word) :
    LocalMeaning fun s => .next ((enter vector s.pc (pushedByInterrupt s.p) s).setT interruptCycles) :=
  .ofRegisters (F := fun r s => .next ((enter vector r.pc (pushedByInterrupt r.p) s).setT interruptCycles)) fun r =>
    ((enter_local vector r.pc (pushedByInterrupt r.p)).bind fun _ =>
      Local.update (fun _ => ()) (State.setT · interruptCycles)).next

/-- Every transition starts with an empty list of calls and goes on with a local meaning. -/
theorem transition_eq_local (k : Transition) : ∃ F, LocalMeaning F ∧ ∀ s, transition k s = F (startTransition s) := by
  cases k with
  | step => exact ⟨_, (fetch_local.bindMeaning exec_local).skipIf State.jammed, fun s => rfl⟩
  | irq =>
    refine ⟨_, ((interrupt_local irqVector).skipIf (State.flag · .I)).skipIf State.jammed, fun s => ?_⟩
    simp only [transition, irq, apply_ite Host.Outcome.next]
    rfl
  | nmi =>
    refine ⟨_, (interrupt_local nmiVector).skipIf State.jammed, fun s => ?_⟩
    simp only [transition, nmi, apply_ite Host.Outcome.next]
    rfl
  | reset =>
    exact ⟨_, ((Local.update (fun _ => ()) fun u =>
      ((((u.setA 0x00).setX 0x00).setY 0x00).setSp 0xFD).setP (resetStatus u.cfg.resetP u.p)).bind fun _ =>
      (read16_local resetVector).bind fun pc => Local.update (fun _ => ()) fun u =>
        ((u.setPc pc).setT (BitVec.ofNat 8 (Config.freeResetCount u.draws).val)).setDraws (u.draws + 1)).next,
      fun s => rfl⟩

/-- What a transition's calls decide: memory after it, and the same transition on any memory that agrees on its reads
(R7, R40, R41). -/
theorem transition_local {k : Transition} {s t : State} (h : transition k s = .next t) :
    t.mem = replay s.mem t.bus ∧
      ∀ m, AgreesOn m s t.bus → transition k (s.setMem m) = .next (t.setMem (replay m t.bus)) := by
  obtain ⟨F, hF, hstart⟩ := transition_eq_local k
  rw [hstart] at h
  obtain ⟨calls, ⟨hbus, hmem⟩, hsame⟩ := hF _ _ h
  obtain rfl : t.bus = calls := hbus
  exact ⟨hmem, fun m hm => (hstart _).trans (hsame m hm)⟩

/-- Settles O10: a transition changes memory by write calls alone, and each keeps the canonical form. -/
theorem memoryStaysCanonical : Obligations.MemoryStaysCanonical := by
  unfold Obligations.MemoryStaysCanonical
  intro k s t hs ht
  have hmem : t.mem = replay s.mem t.bus := (transition_local ht).1
  rw [State.wf, hmem]
  exact replay_wf t.bus hs

/-- Settles O17: every transition is composed of local operations. -/
theorem transitionsDependOnlyOnWhatTheyRead : Obligations.TransitionsDependOnlyOnWhatTheyRead := by
  unfold Obligations.TransitionsDependOnlyOnWhatTheyRead
  intro k s t m ht hm
  exact (transition_local ht).2 m hm

end Sys2Proof.Machine
end

section
/-! SUPPORT. What an instruction may write. `KeepsUnlisted` names all of A, X, Y, S, the flags and the parameters that
an instruction leaves alone because no list of R21 to R24 and R27 has it. Each operation keeps it when the instruction
is listed for what the operation writes, and `Meaning` says once how an instruction's meaning can end: it completes, it
is a branch, or it is a jam. -/

namespace Sys2Proof.Machine

/-! ### Nothing changes but what the rules list -/

/-- From `s` to `t` an instruction changed no register of A, X, Y and S, no flag and no parameter, but what R21 to R24
and R27 list for it. -/
structure KeepsUnlisted (i : Instr) (s t : State) : Prop where
  a : i.writesA = false → t.a = s.a
  x : i.writesX = false → t.x = s.x
  y : i.writesY = false → t.y = s.y
  sp : i.writesSp = false → t.sp = s.sp
  flag : ∀ f, i.writesFlag f = false → t.flag f = s.flag f
  cfg : t.cfg = s.cfg

/-- R27 lists the same instructions for N and for Z. -/
@[simp] theorem writesFlag_N (i : Instr) : i.writesFlag .N = i.writesNZ := rfl
@[simp] theorem writesFlag_Z (i : Instr) : i.writesFlag .Z = i.writesNZ := rfl

/-! A list is a fact about an instruction's constructor, so where an operation asks that the instruction is listed,
`rfl` answers. -/

namespace KeepsUnlisted

variable {i : Instr} {s u : State}

theorem refl : KeepsUnlisted i s s := ⟨fun _ => rfl, fun _ => rfl, fun _ => rfl, fun _ => rfl, fun _ _ => rfl, rfl⟩

/-! Updates that the lists do not speak of. -/

theorem setPc (h : KeepsUnlisted i s u) {v : Word} : KeepsUnlisted i s (u.setPc v) := { h with }

theorem setT (h : KeepsUnlisted i s u) {v : Byte} : KeepsUnlisted i s (u.setT v) := { h with }

theorem setDraws (h : KeepsUnlisted i s u) {n : Nat} : KeepsUnlisted i s (u.setDraws n) := { h with }

theorem setBus (h : KeepsUnlisted i s u) {l : List Access} : KeepsUnlisted i s (u.setBus l) := { h with }

theorem memWrite (h : KeepsUnlisted i s u) {a : Word} {v : Byte} : KeepsUnlisted i s (memWrite a v u) := { h with }

/-! Updates of a register, by an instruction listed for it (R21 to R24). -/

theorem setA (h : KeepsUnlisted i s u) {v : Byte} (hw : i.writesA = true := by rfl) : KeepsUnlisted i s (u.setA v) :=
  { h with a := by simp [hw] }

theorem setX (h : KeepsUnlisted i s u) {v : Byte} (hw : i.writesX = true := by rfl) : KeepsUnlisted i s (u.setX v) :=
  { h with x := by simp [hw] }

theorem setY (h : KeepsUnlisted i s u) {v : Byte} (hw : i.writesY = true := by rfl) : KeepsUnlisted i s (u.setY v) :=
  { h with y := by simp [hw] }

theorem setSp (h : KeepsUnlisted i s u) {v : Byte} (hw : i.writesSp = true := by rfl) : KeepsUnlisted i s (u.setSp v) :=
  { h with sp := by simp [hw] }

/-! Updates of P, by an instruction listed for every flag they may change (R27). -/

theorem setP (h : KeepsUnlisted i s u) (flags : List Flag) {p : Byte} (hp : ∀ f, f ∉ flags → flagOf p f = flagOf u.p f)
    (hw : ∀ f ∈ flags, i.writesFlag f = true) : KeepsUnlisted i s (u.setP p) :=
  { h with
    flag := fun f hf => by
      have hnot : f ∉ flags := fun hmem => by simp [hw f hmem] at hf
      exact (hp f hnot).trans (h.flag f hf) }

theorem setFlag (h : KeepsUnlisted i s u) {f : Flag} {b : Bool} (hw : i.writesFlag f = true := by rfl) :
    KeepsUnlisted i s (u.setFlag f b) :=
  h.setP [f] (by simp +contextual) (by simp [hw])

theorem setNZ (h : KeepsUnlisted i s u) {v : Byte} (hNZ : i.writesNZ = true := by rfl) :
    KeepsUnlisted i s (u.setNZ v) :=
  h.setP [.N, .Z] (by simp +contextual) (by simp [hNZ])

theorem setCompare (h : KeepsUnlisted i s u) {r m : Byte} (hNZ : i.writesNZ = true := by rfl)
    (hC : i.writesFlag .C = true := by rfl) : KeepsUnlisted i s (u.setCompare r m) :=
  h.setP [.N, .Z, .C] (by simp +contextual) (by simp [hNZ, hC])

theorem setShift (h : KeepsUnlisted i s u) {r : ShiftResult} (hNZ : i.writesNZ = true := by rfl)
    (hC : i.writesFlag .C = true := by rfl) : KeepsUnlisted i s (u.setShift r) :=
  h.setP [.N, .Z, .C] (by simp +contextual) (by simp [hNZ, hC])

theorem setBitTest (h : KeepsUnlisted i s u) {m : Byte} (hNZ : i.writesNZ = true := by rfl)
    (hV : i.writesFlag .V = true := by rfl) : KeepsUnlisted i s (u.setBitTest m) :=
  h.setP [.N, .Z, .V] (by simp +contextual) (by simp [hNZ, hV])

theorem setAlu (h : KeepsUnlisted i s u) {r : AluResult} (hA : i.writesA = true := by rfl)
    (hNZ : i.writesNZ = true := by rfl) (hC : i.writesFlag .C = true := by rfl)
    (hV : i.writesFlag .V = true := by rfl) : KeepsUnlisted i s (u.setAlu r) :=
  (h.setA hA).setP [.N, .Z, .C, .V] (by simp +contextual) (by simp [hNZ, hC, hV])

/-- P is loaded as a whole by the instructions that R27 lists for every flag. -/
theorem loadP (h : KeepsUnlisted i s u) {p : Byte} (hw : ∀ f, i.writesFlag f = true) :
    KeepsUnlisted i s (u.setP p) :=
  { h with flag := fun f hf => by simp [hw] at hf }

/-! The shared operations. -/

theorem advanced : KeepsUnlisted i s (advance i s) := refl.setPc

theorem loaded {o : Source} : KeepsUnlisted i s (loadSource o (advance i s)).state := by
  rw [loadSource_state]
  exact advanced.setBus

theorem stored {m : Address} {v : Byte} : KeepsUnlisted i s (storeAddress m v (advance i s)).state := by
  rw [storeAddress_eq]
  exact advanced.setBus.memWrite

theorem modified {m : Address} {f : Byte → Byte} : KeepsUnlisted i s (modifyAddress m f (advance i s)).state := by
  rw [modifyAddress_eq]
  exact advanced.setBus.memWrite

/-- A shift is listed for A when its operand is A (R21). -/
theorem shifted {t : Target} {f : Byte → Byte} (hw : i.writesA = (t == .acc) := by rfl) :
    KeepsUnlisted i s (modifyTarget t f (advance i s)).state := by
  cases t with
  | acc => exact advanced.setA hw
  | mem m => exact modified

theorem push (h : KeepsUnlisted i s u) {v : Byte} (hw : i.writesSp = true := by rfl) : KeepsUnlisted i s (push v u) :=
  h.memWrite.setSp hw

theorem pushWord (h : KeepsUnlisted i s u) {w : Word} (hw : i.writesSp = true := by rfl) :
    KeepsUnlisted i s (pushWord w u) :=
  (h.push hw).push hw

theorem pull (h : KeepsUnlisted i s u) (hw : i.writesSp = true := by rfl) : KeepsUnlisted i s (pull u).2 :=
  (h.setSp hw).setBus

theorem pullWord (h : KeepsUnlisted i s u) (hw : i.writesSp = true := by rfl) : KeepsUnlisted i s (pullWord u).2 :=
  (h.pull hw).pull hw

theorem entered (h : KeepsUnlisted i s u) {vector ret : Word} {pushed : Byte} (hw : i.writesSp = true := by rfl)
    (hI : i.writesFlag .I = true := by rfl) : KeepsUnlisted i s (enter vector ret pushed u) := by
  rw [enter_eq]
  exact ((h.memWrite.memWrite.memWrite.setSp hw).setFlag hI).setPc.setBus

theorem returned (h : KeepsUnlisted i s u) (hP : ∀ f, i.writesFlag f = true) (hw : i.writesSp = true := by rfl) :
    KeepsUnlisted i s (returnFromInterrupt u) :=
  (((h.pull hw).loadP hP).pullWord hw).setPc

end KeepsUnlisted

/-! ### How an instruction's meaning ends -/

/-- The outcomes an instruction's meaning can have: the end of an instruction after changes that the lists allow it, a
branch, or a jam. -/
inductive Meaning (i : Instr) (s : State) : Host.Outcome State Fault Refusal → Prop where
  | complete {u : State} {cross : Bool} (h : KeepsUnlisted i s u) : Meaning i s (complete i cross u)
  | branch (off : Byte) (taken : Bool) : Meaning i s (branch i off taken s)
  | jam (op : Byte) (h : i = .jam op) : Meaning i s (execJam op s)

open KeepsUnlisted in
/-- Every instruction's meaning is one of these, and its updates are those of its rule. -/
theorem exec_meaning (i : Instr) (s : State) : Meaning i s (exec i s) := by
  cases i with
  | lda o => exact .complete loaded.setA.setNZ
  | ldx o => exact .complete loaded.setX.setNZ
  | ldy o => exact .complete loaded.setY.setNZ
  | sta m => exact .complete stored
  | stx m => exact .complete stored
  | sty m => exact .complete stored
  | tax => exact .complete advanced.setX.setNZ
  | tay => exact .complete advanced.setY.setNZ
  | txa => exact .complete advanced.setA.setNZ
  | tya => exact .complete advanced.setA.setNZ
  | tsx => exact .complete advanced.setX.setNZ
  | txs => exact .complete advanced.setSp
  | pha => exact .complete advanced.push
  | php => exact .complete advanced.push
  | pla => exact .complete advanced.pull.setA.setNZ
  | plp => exact .complete (advanced.pull.loadP fun f => by cases f <;> rfl)
  | adc o => exact .complete loaded.setAlu
  | sbc o => exact .complete loaded.setAlu.setDraws
  | cmp o => exact .complete loaded.setCompare
  | cpx o => exact .complete loaded.setCompare
  | cpy o => exact .complete loaded.setCompare
  | inc m => exact .complete modified.setNZ
  | dec m => exact .complete modified.setNZ
  | inx => exact .complete advanced.setX.setNZ
  | iny => exact .complete advanced.setY.setNZ
  | dex => exact .complete advanced.setX.setNZ
  | dey => exact .complete advanced.setY.setNZ
  | and o => exact .complete loaded.setA.setNZ
  | ora o => exact .complete loaded.setA.setNZ
  | eor o => exact .complete loaded.setA.setNZ
  | bit m => exact .complete (loaded (o := .mem m)).setBitTest
  | asl t => exact .complete (shifted).setShift
  | lsr t => exact .complete (shifted).setShift
  | rol t => exact .complete (shifted).setShift
  | ror t => exact .complete (shifted).setShift
  | jmp a => exact .complete refl.setPc
  | jmpInd ptr => exact .complete refl.setBus.setBus.setPc
  | jsr a => exact .complete refl.pushWord.setPc
  | rts => exact .complete refl.pullWord.setPc
  | bcc off => exact .branch off _
  | bcs off => exact .branch off _
  | beq off => exact .branch off _
  | bne off => exact .branch off _
  | bmi off => exact .branch off _
  | bpl off => exact .branch off _
  | bvc off => exact .branch off _
  | bvs off => exact .branch off _
  | brk => exact .complete refl.entered
  | rti => exact .complete (refl.returned fun f => by cases f <;> rfl)
  | clc => exact .complete advanced.setFlag
  | sec => exact .complete advanced.setFlag
  | cli => exact .complete advanced.setFlag
  | sei => exact .complete advanced.setFlag
  | cld => exact .complete advanced.setFlag
  | sed => exact .complete advanced.setFlag
  | clv => exact .complete advanced.setFlag
  | nop => exact .complete advanced
  | jam op => exact .jam op rfl

/-! ### What a completed instruction leaves -/

/-- A branch moves PC and sets T to one of its counts (R82, R194). -/
theorem branch_next {i : Instr} {off : Byte} {taken : Bool} {s t : State} (h : branch i off taken s = .next t) :
    ∃ op pc cross, i.opcode = some op ∧ t = (s.setPc pc).setT (branchCycles taken cross) := by
  unfold branch at h
  split at h
  · next op hop =>
    obtain rfl := Host.Outcome.next.inj h
    cases taken with
    | true => exact ⟨op, _, _, hop, rfl⟩
    | false => exact ⟨op, _, _, hop, rfl⟩
  · cases h

/-- A jam is a halt (R231). -/
theorem execJam_next {op : Byte} {s t : State} (h : execJam op s = .next t) : t = halt s := by
  unfold execJam at h
  split at h
  · exact (Host.Outcome.next.inj h).symm
  · cases h

/-- Whatever an instruction's meaning is, what the lists do not name for it is kept. -/
theorem Meaning.keepsUnlisted {i : Instr} {s t : State} {out : Host.Outcome State Fault Refusal} (h : Meaning i s out)
    (ht : out = .next t) : KeepsUnlisted i s t := by
  cases h with
  | complete hu =>
    obtain ⟨op, -, rfl⟩ := complete_next ht
    exact hu.setT
  | branch off taken =>
    obtain ⟨op, pc, cross, -, rfl⟩ := branch_next ht
    exact .setT (.setPc .refl)
  | jam op hi =>
    obtain rfl := execJam_next ht
    rw [halt_eq]
    exact .setPc (.setT .refl)

/-- An instruction that is no jam leaves in T its opcode's count, or a branch's (R82). -/
theorem Meaning.count {i : Instr} {s t : State} {out : Host.Outcome State Fault Refusal} (h : Meaning i s out)
    (ht : out = .next t) (hi : i.isJam = false) :
    ∃ op, i.opcode = some op ∧
      ((∃ cross, t.t = cycles op cross) ∨ ∃ taken cross, t.t = branchCycles taken cross) := by
  cases h with
  | complete hu =>
    obtain ⟨op, hop, rfl⟩ := complete_next ht
    exact ⟨op, hop, .inl ⟨_, rfl⟩⟩
  | branch off taken =>
    obtain ⟨op, pc, cross, hop, rfl⟩ := branch_next ht
    exact ⟨op, hop, .inr ⟨taken, cross, rfl⟩⟩
  | jam op hjam =>
    subst hjam
    cases hi

end Sys2Proof.Machine
end

section
/-! SUPPORT. What each transition leaves alone: a Step runs the instruction that the bytes at PC decode to and keeps
what the lists of R21 to R24 and R27 do not name for it, IRQ and NMI are skipped or enter a handler, and Reset has its
own rule. -/

namespace Sys2Proof.Machine

/-! ### What a Step runs -/

theorem not_jammed {s : State} (hs : s.t ≠ 0xFF) : s.jammed = false :=
  Bool.eq_false_iff.mpr fun h => hs ((jammed_iff s).mp h)

theorem step_of_jammed {s : State} (hs : s.t = 0xFF) : step s = .next (startTransition s) := by
  simp [step, (jammed_iff s).mpr hs]

theorem step_of_not_jammed {s : State} (hs : s.t ≠ 0xFF) :
    step s = exec (fetch (startTransition s)).instr (fetch (startTransition s)).state := by
  simp [step, not_jammed hs]

/-- The bytes at PC decode to the instruction that a Step fetches (R80). -/
theorem fetch_instr_of_decode {s : State} {i : Instr} {rest : List Byte}
    (h : decode [s.peek s.pc, s.peek (s.pc + 1), s.peek (s.pc + 2)] = .ok (i, rest)) : (fetch s).instr = i := by
  rw [fetch_instr]
  simp only [decode] at h
  split at h
  · next hn =>
    obtain ⟨rfl, -⟩ : _ ∧ _ = rest := by simpa using h
    simp [hn]
  · next hn hbytes =>
    obtain ⟨rfl, -⟩ : s.peek (s.pc + 1) = _ ∧ _ := by simpa using hbytes
    obtain ⟨rfl, -⟩ : _ ∧ _ = rest := by simpa using h
    simp [hn]
  · next hn hbytes =>
    obtain ⟨rfl, rfl, -⟩ : s.peek (s.pc + 1) = _ ∧ s.peek (s.pc + 2) = _ ∧ _ := by simpa using hbytes
    obtain ⟨rfl, -⟩ : _ ∧ _ = rest := by simpa using h
    simp [hn]
  · cases h

/-- Fetching changes no register and no flag, so a Step keeps what its instruction keeps. -/
theorem step_keepsUnlisted {s t : State} (hs : s.t ≠ 0xFF) (ht : step s = .next t) :
    KeepsUnlisted (fetch (startTransition s)).instr s t := by
  rw [step_of_not_jammed hs, fetch_state] at ht
  have h := (exec_meaning _ _).keepsUnlisted ht
  exact { h with }

theorem step_keepsUnlisted_of_decode {s t : State} {i : Instr} {rest : List Byte} (hs : s.t ≠ 0xFF)
    (hi : decode [s.peek s.pc, s.peek (s.pc + 1), s.peek (s.pc + 2)] = .ok (i, rest)) (ht : step s = .next t) :
    KeepsUnlisted i s t := by
  have h := step_keepsUnlisted hs ht
  rwa [fetch_instr_of_decode (s := startTransition s) hi] at h

/-- Settles O15: a Step keeps what R21 to R24 do not list for its instruction. -/
theorem registersAreWrittenOnlyAsListed : Obligations.RegistersAreWrittenOnlyAsListed := by
  unfold Obligations.RegistersAreWrittenOnlyAsListed
  intro s t i rest hs hi ht
  have h := step_keepsUnlisted_of_decode hs hi ht
  exact ⟨h.a, h.x, h.y, h.sp⟩

/-! ### IRQ, NMI and Reset -/

@[simp] theorem enter_cfg (vector ret : Word) (pushed : Byte) (s : State) : (enter vector ret pushed s).cfg = s.cfg := by
  simp [enter_eq, entryStack]

/-- An entry changes no flag but I (R244, R247). -/
@[simp] theorem enter_flag (vector ret : Word) (pushed : Byte) (s : State) (f : Flag) :
    (enter vector ret pushed s).flag f = if f = .I then true else s.flag f := by
  simp [enter_eq, entryStack]

/-- What IRQ and NMI can do: they are skipped, or they enter a handler (R241, R242, R244). -/
inductive Interrupted (s : State) : State → Prop where
  | skipped : Interrupted s (startTransition s)
  | entered (vector ret : Word) (pushed : Byte) :
      Interrupted s ((enter vector ret pushed (startTransition s)).setT interruptCycles)

theorem irq_interrupted (s : State) : Interrupted s (irq s) := by
  simp only [irq]
  split
  · exact .skipped
  split
  · exact .skipped
  · exact .entered _ _ _

theorem nmi_interrupted (s : State) : Interrupted s (nmi s) := by
  simp only [nmi]
  split
  · exact .skipped
  · exact .entered _ _ _

theorem Interrupted.flag {s t : State} (h : Interrupted s t) {f : Flag} (hf : f ≠ .I) : t.flag f = s.flag f := by
  cases h with
  | skipped => rfl
  | entered => simp [startTransition, hf]

theorem Interrupted.cfg {s t : State} (h : Interrupted s t) : t.cfg = s.cfg := by
  cases h with
  | skipped => rfl
  | entered => simp [startTransition]

/-- The flags after Reset (R270). -/
@[simp] theorem flagOf_resetStatus (c : ResetP) (p : Byte) (f : Flag) :
    flagOf (resetStatus c p) f = if f = .U then true else if f = .I ∧ c = .nmos then true else flagOf p f := by
  cases c <;> cases f <;> simp [flagOf, resetStatus, Flag.pos]

theorem resetBlock_flag (s : State) {f : Flag} (hU : f ≠ .U) (hI : f ≠ .I) : (resetBlock s).flag f = s.flag f := by
  have hp : (resetBlock s).p = resetStatus s.cfg.resetP s.p := rfl
  simp [State.flag, hp, hU, hI]

/-- No transition changes the parameters of R9. -/
theorem transition_cfg {k : Transition} {s t : State} (h : transition k s = .next t) : t.cfg = s.cfg := by
  cases k with
  | step =>
    by_cases hs : s.t = 0xFF
    · obtain rfl := Host.Outcome.next.inj ((step_of_jammed hs).symm.trans h)
      rfl
    · exact (step_keepsUnlisted hs h).cfg
  | irq =>
    obtain rfl := Host.Outcome.next.inj h
    exact (irq_interrupted s).cfg
  | nmi =>
    obtain rfl := Host.Outcome.next.inj h
    exact (nmi_interrupted s).cfg
  | reset =>
    obtain rfl := Host.Outcome.next.inj h
    rfl

/-- Settles O16: a Step keeps what R27 does not list for its instruction, an entry writes I alone, and Reset U and I. -/
theorem flagsAreWrittenOnlyAsListed : Obligations.FlagsAreWrittenOnlyAsListed := by
  unfold Obligations.FlagsAreWrittenOnlyAsListed
  refine ⟨fun s t i rest hs hi ht => ?_, fun s f hf => ?_, fun s f hU hI => ?_, fun k s t ht => ?_⟩
  · exact (step_keepsUnlisted_of_decode hs hi ht).flag
  · exact ⟨(irq_interrupted s).flag hf, (nmi_interrupted s).flag hf⟩
  · exact resetBlock_flag s hU hI
  · exact transition_cfg ht

end Sys2Proof.Machine
end

section
/-! SUPPORT. T after each transition (R29): the opcode map, the encoder and the timing table agree on which opcodes are
invalid and what the others count, so a Step's opcode alone decides whether it jams. -/

namespace Sys2Proof.Machine

/-! ### The opcode map and the counts -/

/-- A check that holds of every opcode of every row of the opcode map (R83) holds of every opcode. -/
theorem forall_opcode_of_rows {check : Byte → Bool}
    (h : ((List.range 16).all fun hi => (List.range 16).all fun lo => check (BitVec.ofNat 8 (16 * hi + lo))) = true)
    (op : Byte) : check op = true := by
  have hrow := List.all_eq_true.mp h (op.toNat / 16) (by simp; omega)
  simpa [Nat.div_add_mod] using List.all_eq_true.mp hrow (op.toNat % 16) (by simp; omega)

/-- The opcode map and the encoder agree (R83). -/
theorem decodeOp_opcode (op b1 b2 : Byte) : (decodeOp op b1 b2).opcode = some op :=
  eq_of_beq (forall_opcode_of_rows (check := fun op => (decodeOp op b1 b2).opcode == some op) rfl op)

/-- The cells of the listed opcodes are jams (R84). -/
theorem decodeOp_of_invalid {op : Byte} (h : op ∈ invalidOpcodes) (b1 b2 : Byte) : (decodeOp op b1 b2).isJam = true := by
  have hall : (invalidOpcodes.all fun op => (decodeOp op b1 b2).isJam) = true := by
    simp only [invalidOpcodes, List.all_append]
    rfl
  exact List.all_eq_true.mp hall op h

theorem eq_jam_of_isJam {i : Instr} (h : i.isJam = true) : ∃ op, i = .jam op := by
  unfold Instr.isJam at h
  split at h
  · exact ⟨_, rfl⟩
  · cases h

/-- R84: an opcode decodes to a jam exactly when it is one of the listed ones. -/
theorem isJam_decodeOp (op b1 b2 : Byte) : (decodeOp op b1 b2).isJam = true ↔ op ∈ invalidOpcodes := by
  refine ⟨fun h => ?_, fun h => decodeOp_of_invalid h b1 b2⟩
  obtain ⟨op', hjam⟩ := eq_jam_of_isJam h
  have hop := decodeOp_opcode op b1 b2
  rw [hjam] at hop
  obtain ⟨hmem, rfl⟩ : op' ∈ invalidOpcodes ∧ op' = op := by simpa [Instr.opcode] using hop
  exact hmem

/-- R83: the timing byte of a valid opcode is a count from 2 to 7. -/
theorem timeTable_range {op : Byte} (h : op ∉ invalidOpcodes) : 4 ≤ timeTable op ∧ timeTable op ≤ 14 := by
  have hcheck := forall_opcode_of_rows
    (check := fun op => (decodeOp op 0 0).isJam || (Nat.ble 4 (timeTable op) && Nat.ble (timeTable op) 14)) rfl op
  simpa [isJam_decodeOp, h] using hcheck

theorem cycles_range {op : Byte} (h : op ∉ invalidOpcodes) (cross : Bool) :
    2 ≤ (cycles op cross).toNat ∧ (cycles op cross).toNat ≤ 7 := by
  have := timeTable_range h
  simp only [cycles, BitVec.toNat_ofNat]
  split <;> omega

theorem branchCycles_range (taken cross : Bool) :
    2 ≤ (branchCycles taken cross).toNat ∧ (branchCycles taken cross).toNat ≤ 7 := by
  cases taken <;> cases cross <;> decide

/-! ### T after each transition -/

/-- The opcode at PC selects the instruction of a Step (R80). -/
theorem fetch_startTransition_instr (s : State) :
    ∃ b1 b2, (fetch (startTransition s)).instr = decodeOp (s.peek s.pc) b1 b2 := ⟨_, _, fetch_instr _⟩

/-- T after a Step of an invalid opcode (R231). -/
theorem step_t_of_invalid {s t : State} (hs : s.t ≠ 0xFF) (hop : s.peek s.pc ∈ invalidOpcodes) (ht : step s = .next t) :
    t.t = 0xFF := by
  obtain ⟨b1, b2, hi⟩ := fetch_startTransition_instr s
  obtain ⟨op, hjam⟩ := eq_jam_of_isJam (decodeOp_of_invalid hop b1 b2)
  rw [step_of_not_jammed hs, hi, hjam] at ht
  obtain rfl := execJam_next ht
  rw [halt_eq]
  rfl

/-- T after a Step of any other opcode (R29). -/
theorem step_t_of_valid {s t : State} (hs : s.t ≠ 0xFF) (hop : s.peek s.pc ∉ invalidOpcodes) (ht : step s = .next t) :
    2 ≤ t.t.toNat ∧ t.t.toNat ≤ 7 := by
  obtain ⟨b1, b2, hi⟩ := fetch_startTransition_instr s
  have hjam : (decodeOp (s.peek s.pc) b1 b2).isJam = false := by simpa [← isJam_decodeOp _ b1 b2] using hop
  rw [step_of_not_jammed hs, hi] at ht
  obtain ⟨op, hop', hcount⟩ := (exec_meaning _ _).count ht hjam
  obtain rfl : s.peek s.pc = op := by simpa [decodeOp_opcode] using hop'
  obtain ⟨cross, hT⟩ | ⟨taken, cross, hT⟩ := hcount
  · rw [hT]
    exact cycles_range hop cross
  · rw [hT]
    exact branchCycles_range taken cross

/-- T after IRQ: skipped, or the count of an entry (R241, R245). -/
theorem irq_t {s : State} (hs : s.t ≠ 0xFF) : (irq s).t = if s.flag .I then s.t else 7 := by
  simp only [irq, not_jammed hs, Bool.false_eq_true, if_false, apply_ite State.t]
  rfl

theorem nmi_t {s : State} (hs : s.t ≠ 0xFF) : (nmi s).t = 7 := by
  simp only [nmi, not_jammed hs, Bool.false_eq_true, if_false]
  rfl

theorem resetBlock_t (s : State) : (resetBlock s).t ≠ 0xFF := by
  have hT : (resetBlock s).t = BitVec.ofNat 8 (Config.freeResetCount s.draws).val := rfl
  have hcount := (Config.freeResetCount s.draws).isLt
  rw [hT]
  bv_omega

/-- Settles O9: the opcode decides whether a Step jams, and each transition's own rule gives the count. -/
theorem onlyAnInvalidOpcodeJams : Obligations.OnlyAnInvalidOpcodeJams := by
  unfold Obligations.OnlyAnInvalidOpcodeJams
  refine ⟨fun s t hs ht => ?_, fun s hs => ?_, resetBlock_t⟩
  · by_cases hop : s.peek s.pc ∈ invalidOpcodes
    · have hT := step_t_of_invalid hs hop ht
      exact ⟨iff_of_true hT hop, fun h => absurd hT h⟩
    · have hrange := step_t_of_valid hs hop ht
      have hT : t.t ≠ 0xFF := fun h => by rw [h] at hrange; exact absurd hrange.2 (by decide)
      exact ⟨iff_of_false hT hop, fun _ => hrange⟩
  · exact ⟨irq_t hs, nmi_t hs⟩

end Sys2Proof.Machine
end

section
/-! SUPPORT. The register record and what the host may replace between transitions. -/

namespace Sys2Proof.Machine

/-- Settles O18: the comparison is field by field, and T is no field of it. -/
theorem equalityIgnoresT : Obligations.EqualityIgnoresT := by
  unfold Obligations.EqualityIgnoresT
  intro r q
  simp [Registers.same, and_assoc]

/-- Settles O19: the host's update sets each register and its store is one write of memory. -/
theorem hostReplacesRegistersAndBytes : Obligations.HostReplacesRegistersAndBytes := by
  unfold Obligations.HostReplacesRegistersAndBytes
  refine ⟨fun r s => ⟨rfl, rfl, rfl, rfl⟩, fun a v s => ⟨rfl, fun b => ?_⟩⟩
  simp only [hostStore, setMem_peek, read_write, BitVec.toNat_inj]
  rfl

end Sys2Proof.Machine
end

section
/-! SUPPORT. Memory seen from outside: a read gives the byte written last, and a transition changes memory by its write
calls alone (20_memory.md sections 1 and 6). -/

namespace Sys2Proof.Machine

/-- Settles O20: `read_write` for the block's own write; the host's store is O19's. -/
theorem readGivesTheLastWrite : Obligations.ReadGivesTheLastWrite := by
  unfold Obligations.ReadGivesTheLastWrite
  intro s a b v
  have hhost : ∀ c, (hostStore a v s).peek c = if c = a then v else s.peek c :=
    (hostReplacesRegistersAndBytes.2 a v s).2
  exact ⟨memWrite_peek a b v s, memRead_value b (memWrite a v s), hhost b⟩

/-- Settles O12: every transition is local, so its calls alone say what becomes of memory. -/
theorem memoryChangesOnlyByWriteCalls : Obligations.MemoryChangesOnlyByWriteCalls := by
  unfold Obligations.MemoryChangesOnlyByWriteCalls
  intro k s t ht
  exact (transition_local ht).1

end Sys2Proof.Machine
end

section
/-! SUPPORT. How many write calls an operation makes (R54): `MakesWrites` counts them, each shared operation has its
number, and the numbers add up along an instruction's meaning. -/

namespace Sys2Proof.Machine

/-! ### Counting write calls -/

@[simp] theorem writeCalls_nil : writeCalls [] = 0 := rfl

@[simp] theorem writeCalls_append (calls calls' : List Access) :
    writeCalls (calls ++ calls') = writeCalls calls + writeCalls calls' := List.countP_append

@[simp] theorem writeCalls_read (a : Word) (calls : List Access) :
    writeCalls (.read a :: calls) = writeCalls calls := List.countP_cons_of_neg (by simp)

@[simp] theorem writeCalls_write (a : Word) (v : Byte) (calls : List Access) :
    writeCalls (.write a v :: calls) = writeCalls calls + 1 := List.countP_cons_of_pos rfl

/-- From `s` to `u` the access list has come to hold `n` more write calls. -/
def MakesWrites (n : Nat) (s u : State) : Prop := writeCalls u.bus = writeCalls s.bus + n

theorem MakesWrites.trans {n k : Nat} {s u t : State} (h : MakesWrites n s u) (h' : MakesWrites k u t) :
    MakesWrites (n + k) s t := by
  unfold MakesWrites at *
  omega

/-! ### The shared operations -/

section
variable (s : State)

theorem makesWrites_refl : MakesWrites 0 s s := rfl

theorem memRead_makesWrites (a : Word) : MakesWrites 0 s (memRead a s).2 := by simp [MakesWrites]

theorem memWrite_makesWrites (a : Word) (v : Byte) : MakesWrites 1 s (memWrite a v s) := by simp [MakesWrites]

theorem push_makesWrites (v : Byte) : MakesWrites 1 s (push v s) := memWrite_makesWrites s (stackAddr s.sp) v

theorem pushWord_makesWrites (w : Word) : MakesWrites 2 s (pushWord w s) :=
  (push_makesWrites s (hiByte w)).trans (push_makesWrites _ (loByte w))

theorem pull_makesWrites : MakesWrites 0 s (pull s).2 := by simp [MakesWrites]

theorem pullWord_makesWrites : MakesWrites 0 s (pullWord s).2 := by simp [MakesWrites]

/-- An entry writes the return address and P (R244). -/
theorem enter_makesWrites (vector ret : Word) (pushed : Byte) : MakesWrites 3 s (enter vector ret pushed s) := by
  simp [MakesWrites, enter_eq]

theorem returnFromInterrupt_makesWrites : MakesWrites 0 s (returnFromInterrupt s) := by
  simp [MakesWrites, returnFromInterrupt_eq]

theorem fetch_makesWrites : MakesWrites 0 s (fetch s).state := by
  rw [MakesWrites, fetch_state, fetchReads]
  split <;> split <;> simp

@[simp] theorem writeCalls_pointerReads (m : Address) : writeCalls (pointerReads m s) = 0 := by
  cases m <;> rfl

theorem loadAddress_makesWrites (m : Address) : MakesWrites 0 s (loadAddress m s).state := by
  simp [MakesWrites]

theorem loadSource_makesWrites (o : Source) : MakesWrites 0 s (loadSource o s).state := by
  cases o with
  | imm v => exact makesWrites_refl s
  | mem m => exact loadAddress_makesWrites s m

theorem storeAddress_makesWrites (m : Address) (v : Byte) : MakesWrites 1 s (storeAddress m v s).state := by
  simp [MakesWrites]

theorem modifyAddress_makesWrites (m : Address) (f : Byte → Byte) : MakesWrites 1 s (modifyAddress m f s).state := by
  simp [MakesWrites]

/-- A shift writes memory unless its operand is A (R174 to R177). -/
theorem modifyTarget_makesWrites (t : Target) (f : Byte → Byte) :
    MakesWrites (if t == .acc then 0 else 1) s (modifyTarget t f s).state := by
  cases t with
  | acc => exact makesWrites_refl s
  | mem m => exact modifyAddress_makesWrites s m f

end

/-! ### The meaning of every instruction -/

/-- Wherever a meaning gives a next state, it has made the write calls that R54 lists for its instruction. -/
def OutcomeWrites (i : Instr) (s : State) (out : Host.Outcome State Fault Refusal) : Prop :=
  ∀ t, out = .next t → MakesWrites i.writeCount s t

/-- A completed instruction accesses what its operation, which ended in `u'`, does; all else it updates is registers. -/
theorem OutcomeWrites.complete {i : Instr} {s u u' : State} {cross : Bool} (h : MakesWrites i.writeCount s u')
    (hbus : u.bus = u'.bus := by rfl) : OutcomeWrites i s (complete i cross u) := by
  intro t ht
  obtain ⟨op, -, rfl⟩ := complete_next ht
  rw [MakesWrites, setT_bus, hbus]
  exact h

theorem OutcomeWrites.branch {i : Instr} (off : Byte) (taken : Bool) (s : State)
    (hi : i.writeCount = 0 := by rfl) : OutcomeWrites i s (branch i off taken s) := by
  intro t ht
  obtain ⟨op, pc, cross, -, rfl⟩ := branch_next ht
  rw [hi]
  exact makesWrites_refl s

theorem OutcomeWrites.jam (op : Byte) (s : State) : OutcomeWrites (.jam op) s (execJam op s) := by
  intro t ht
  obtain rfl := execJam_next ht
  rw [halt_eq]
  exact makesWrites_refl s

/-- Every instruction makes the write calls of the one shared operation it accesses memory by. -/
theorem exec_outcomeWrites (i : Instr) (s : State) : OutcomeWrites i s (exec i s) := by
  cases i with
  | lda o | ldx o | ldy o | adc o | sbc o | cmp o | cpx o | cpy o | and o | ora o | eor o =>
    exact .complete (loadSource_makesWrites (advance _ s) o)
  | bit m => exact .complete (loadAddress_makesWrites (advance _ s) m)
  | sta m | stx m | sty m => exact .complete (storeAddress_makesWrites (advance _ s) m _)
  | inc m => exact .complete (modifyAddress_makesWrites (advance (.inc m) s) m (· + 1))
  | dec m => exact .complete (modifyAddress_makesWrites (advance (.dec m) s) m (· - 1))
  | asl t | lsr t | rol t | ror t => exact .complete (modifyTarget_makesWrites (advance _ s) t _)
  | tax | tay | txa | tya | tsx | txs | inx | iny | dex | dey | jmp
  | clc | sec | cli | sei | cld | sed | clv | nop => exact .complete (makesWrites_refl s)
  | pha | php => exact .complete (push_makesWrites (advance _ s) _)
  | pla | plp => exact .complete (pull_makesWrites (advance _ s))
  | jmpInd ptr => exact .complete ((memRead_makesWrites s ptr).trans (memRead_makesWrites _ _))
  | jsr a => exact .complete (pushWord_makesWrites s _)
  | rts => exact .complete (pullWord_makesWrites s)
  | brk => exact .complete (enter_makesWrites s _ _ _)
  | rti => exact .complete (returnFromInterrupt_makesWrites s)
  | bcc off | bcs off | beq off | bne off | bmi off | bpl off | bvc off | bvs off => exact .branch off _ s
  | jam op => exact .jam op s

/-! ### Every transition -/

theorem step_writeCalls {s t : State} {i : Instr} {rest : List Byte} (hs : s.t ≠ 0xFF)
    (hi : decode [s.peek s.pc, s.peek (s.pc + 1), s.peek (s.pc + 2)] = .ok (i, rest)) (ht : step s = .next t) :
    writeCalls t.bus = i.writeCount := by
  rw [step_of_not_jammed hs, fetch_instr_of_decode (s := startTransition s) hi] at ht
  have hcalls := (fetch_makesWrites (startTransition s)).trans (exec_outcomeWrites i _ t ht)
  simpa [MakesWrites, startTransition] using hcalls

/-- A taken IRQ or an NMI makes the writes of an entry, on an empty access list. -/
theorem entered_writeCalls (vector ret : Word) (pushed : Byte) (s : State) :
    writeCalls (enter vector ret pushed (startTransition s)).bus = 3 :=
  enter_makesWrites (startTransition s) vector ret pushed

/-- IRQ writes when it is taken (R241). -/
theorem irq_writeCalls (s : State) : writeCalls (irq s).bus = if s.t = 0xFF ∨ s.flag .I = true then 0 else 3 := by
  simp only [irq, ← jammed_iff]
  cases s.jammed with
  | true => simp [startTransition]
  | false =>
    cases s.flag .I with
    | true => simp [startTransition]
    | false => simp [entered_writeCalls]

/-- NMI writes unless the block is jammed (R242). -/
theorem nmi_writeCalls (s : State) : writeCalls (nmi s).bus = if s.t = 0xFF then 0 else 3 := by
  simp only [nmi, ← jammed_iff]
  cases s.jammed with
  | true => simp [startTransition]
  | false => simp [entered_writeCalls]

/-- Settles O13: the write calls of a Step are its instruction's; the other transitions write on an entry alone. -/
theorem writeCallsAreFixedByTheOpcode : Obligations.WriteCallsAreFixedByTheOpcode := by
  unfold Obligations.WriteCallsAreFixedByTheOpcode
  exact ⟨fun s t i rest hs hi ht => step_writeCalls hs hi ht, irq_writeCalls, nmi_writeCalls, fun s => rfl⟩

end Sys2Proof.Machine
end

section
/-! SUPPORT. Effective addresses and the stack as numbers: where each addressing mode and S wrap (R44 to R47, R71). -/

namespace Sys2Proof.Machine

/-- The byte at a word's address. -/
theorem peek_toNat (s : State) (a : Word) : (s.peek a).toNat = byteAt s a.toNat := by
  rw [byteAt, Nat.mod_eq_of_lt a.isLt, State.peek]

/-! ### Operands -/

theorem zeroPage_add_toNat (z i : Byte) : (zeroPage (z + i)).toNat = (z.toNat + i.toNat) % 256 := by
  rw [zeroPage_toNat, BitVec.toNat_add]

/-- A zero-page pointer's high byte comes from the zero page too (R44). -/
theorem readZP16_toNat (p : Byte) (s : State) :
    (readZP16 p s).1.toNat = byteAt s p.toNat + 256 * byteAt s ((p.toNat + 1) % 256) := by
  have hhi : (s.peek (zeroPage (p + 1))).toNat = byteAt s ((p.toNat + 1) % 256) := by
    rw [peek_toNat, zeroPage_add_toNat]
    rfl
  have hlo : (s.peek (zeroPage p)).toNat = byteAt s p.toNat := by rw [peek_toNat, zeroPage_toNat]
  rw [readZP16_value, joinBytes_toNat, hhi, hlo]
  omega

theorem indexed_ea_toNat (base : Word) (index : Byte) (s : State) :
    (indexed base index s).ea.toNat = (base.toNat + index.toNat) % 65536 := by
  have := index.isLt
  simp only [indexed, BitVec.toNat_add, BitVec.toNat_setWidth]
  omega

theorem indexed_cross (base : Word) (index : Byte) (s : State) :
    (indexed base index s).cross = decide ((indexed base index s).ea.toNat / 256 ≠ base.toNat / 256) :=
  crosses_eq base _

/-- `(zp,X)` is the pointer at the indexed zero-page address. -/
theorem ea_indX_toNat (z : Byte) (s : State) :
    (ea (.indX z) s).toNat =
      byteAt s ((z.toNat + s.x.toNat) % 256) + 256 * byteAt s ((z.toNat + s.x.toNat + 1) % 256) := by
  have hea : ea (.indX z) s = (readZP16 (z + s.x) s).1 := rfl
  rw [hea, readZP16_toNat, BitVec.toNat_add, Nat.mod_add_mod]

/-- `(zp),Y` indexes the pointer at the zero-page address. -/
theorem ea_indY_toNat (z : Byte) (s : State) :
    (ea (.indY z) s).toNat =
      (byteAt s z.toNat + 256 * byteAt s ((z.toNat + 1) % 256) + s.y.toNat) % 65536 := by
  rw [← readZP16_toNat]
  exact indexed_ea_toNat (readZP16 z s).1 s.y _

/-- The page of a `(zp),Y` address's base is the pointer's high byte. -/
theorem resolve_indY_cross (z : Byte) (s : State) :
    (resolve (.indY z) s).cross = decide ((ea (.indY z) s).toNat / 256 ≠ byteAt s ((z.toNat + 1) % 256)) := by
  have hpage : (readZP16 z s).1.toNat / 256 = byteAt s ((z.toNat + 1) % 256) := by
    have : byteAt s z.toNat < 256 := BitVec.isLt _
    rw [readZP16_toNat]
    omega
  rw [← hpage]
  exact indexed_cross (readZP16 z s).1 s.y _

/-- Settles O21: zero-page sums are bytes, and the other indexed addresses are sums of words. -/
theorem effectiveAddresses : Obligations.EffectiveAddresses := by
  unfold Obligations.EffectiveAddresses
  intro s z a
  have hcross : ∀ index, (indexed a index s).cross =
      decide ((a.toNat + index.toNat) % 65536 / 256 ≠ a.toNat / 256) :=
    fun index => by rw [indexed_cross, indexed_ea_toNat]
  exact ⟨zeroPage_toNat z, rfl, zeroPage_add_toNat z s.x, rfl, zeroPage_add_toNat z s.y, rfl, rfl, rfl,
    indexed_ea_toNat a s.x s, hcross s.x, indexed_ea_toNat a s.y s, hcross s.y,
    ea_indX_toNat z s, rfl, ea_indY_toNat z s, resolve_indY_cross z s⟩

/-! ### The stack -/

/-- A push changes the byte under S alone (R46). -/
theorem byteAt_push (v : Byte) (s : State) (n : Nat) :
    byteAt (push v s) n = if n % 65536 = 256 + s.sp.toNat then v.toNat else byteAt s n := by
  simp only [byteAt, push_eq, setSp_mem, memWrite_mem, read_write, stackAddr_toNat, apply_ite BitVec.toNat]

theorem push_sp_toNat (v : Byte) (s : State) : (push v s).sp.toNat = (s.sp.toNat + 255) % 256 := by
  rw [push_eq, setSp_sp]
  bv_omega

/-- The address that a pull reads, with its wrap (R47). -/
theorem stackAddr_add_one_toNat (sp : Byte) : (stackAddr (sp + 1)).toNat = 256 + (sp.toNat + 1) % 256 := by
  rw [stackAddr_toNat, BitVec.toNat_add]
  rfl

/-- A pull takes back what a push put on the stack. -/
theorem pull_push (v : Byte) (s : State) : (pull (push v s)).1 = v ∧ (pull (push v s)).2.sp = s.sp := by
  simp [push_eq]

/-- Settles O22: S is a byte, so its stack address stays in the page. -/
theorem stackStaysInItsPage : Obligations.StackStaysInItsPage := by
  unfold Obligations.StackStaysInItsPage
  intro s v
  have := s.sp.isLt
  refine ⟨⟨push_sp_toNat v s, ?_, fun n hn hne => ?_, stackAddr s.sp, stackAddr_toNat s.sp, rfl⟩,
    ⟨BitVec.toNat_add _ _, ?_, fun n => rfl, stackAddr (s.sp + 1), stackAddr_add_one_toNat s.sp, rfl⟩, pull_push v s⟩
  · rw [byteAt_push, if_pos (by omega)]
  · rw [byteAt_push, if_neg (by omega)]
  · rw [pull_value, peek_toNat, stackAddr_add_one_toNat]

end Sys2Proof.Machine
end

section
/-! SUPPORT. What an instruction that completes leaves: T and PC by its form (R82), N and Z by its result (R30), and
nothing else changed but what its updates write. `OnlyWrites` is built update by update, as `KeepsUnlisted` is. -/

namespace Sys2Proof.Machine

/-! ### Nothing changes but what is named -/

namespace OnlyWrites

variable {w : Writes} {s u : State}

theorem refl : OnlyWrites w s s :=
  ⟨fun _ => rfl, fun _ => rfl, fun _ => rfl, fun _ => rfl, fun _ _ => rfl, fun _ _ => rfl, rfl, fun _ => rfl⟩

/-! PC, T and the access list are outside the frame. -/

theorem setPc (h : OnlyWrites w s u) {v : Word} : OnlyWrites w s (u.setPc v) := h

theorem setT (h : OnlyWrites w s u) {v : Byte} : OnlyWrites w s (u.setT v) := h

theorem setBus (h : OnlyWrites w s u) {l : List Access} : OnlyWrites w s (u.setBus l) := h

theorem advanced {i : Instr} : OnlyWrites w s (advance i s) := refl.setPc

/-! Every other update is one that `w` names. -/

theorem setA (h : OnlyWrites w s u) {v : Byte} (hw : w.a = true := by rfl) : OnlyWrites w s (u.setA v) := by
  obtain ⟨-, hx, hy, hsp, hflag, hpeek, hcfg, hdraws⟩ := h
  exact ⟨fun hno => absurd hw (by simp [hno]), hx, hy, hsp, hflag, hpeek, hcfg, hdraws⟩

theorem setX (h : OnlyWrites w s u) {v : Byte} (hw : w.x = true := by rfl) : OnlyWrites w s (u.setX v) := by
  obtain ⟨ha, -, hy, hsp, hflag, hpeek, hcfg, hdraws⟩ := h
  exact ⟨ha, fun hno => absurd hw (by simp [hno]), hy, hsp, hflag, hpeek, hcfg, hdraws⟩

theorem setY (h : OnlyWrites w s u) {v : Byte} (hw : w.y = true := by rfl) : OnlyWrites w s (u.setY v) := by
  obtain ⟨ha, hx, -, hsp, hflag, hpeek, hcfg, hdraws⟩ := h
  exact ⟨ha, hx, fun hno => absurd hw (by simp [hno]), hsp, hflag, hpeek, hcfg, hdraws⟩

/-- An update of P is an update of flags: it keeps every flag outside `w`. -/
theorem setP (h : OnlyWrites w s u) {p : Byte} (hp : ∀ f, f ∉ w.flags → flagOf p f = u.flag f) :
    OnlyWrites w s (u.setP p) := by
  obtain ⟨ha, hx, hy, hsp, hflag, hpeek, hcfg, hdraws⟩ := h
  exact ⟨ha, hx, hy, hsp, fun f hf => (hp f hf).trans (hflag f hf), hpeek, hcfg, hdraws⟩

theorem setNZ (h : OnlyWrites w s u) {v : Byte} (hN : .N ∈ w.flags := by decide) (hZ : .Z ∈ w.flags := by decide) :
    OnlyWrites w s (u.setNZ v) := by
  refine h.setP fun f hf => ?_
  have hfZ : f ≠ .Z := fun he => hf (he ▸ hZ)
  have hfN : f ≠ .N := fun he => hf (he ▸ hN)
  rw [flagOf_withNZ, if_neg hfZ, if_neg hfN, State.flag]

theorem memWrite (h : OnlyWrites w s u) {a : Word} {v : Byte} (ha : a ∈ w.stores) :
    OnlyWrites w s (memWrite a v u) := by
  obtain ⟨hA, hx, hy, hsp, hflag, hpeek, hcfg, hdraws⟩ := h
  refine ⟨hA, hx, hy, hsp, hflag, fun b hb => ?_, hcfg, hdraws⟩
  have hne : b ≠ a := fun he => hb (he ▸ ha)
  rw [memWrite_peek, if_neg hne, hpeek b hb]

end OnlyWrites

/-! ### The end of an instruction -/

/-- `SetNZ` leaves the N and Z of its byte (R30). -/
theorem setNZ_hasNZ (u : State) (v : Byte) : HasNZ (u.setNZ v) v :=
  ⟨by rw [setNZ_flag, if_neg (by decide), if_pos rfl, negative], by rw [setNZ_flag, if_pos rfl, isZero_eq]⟩

/-- The instruction has the form's opcode, and that opcode's count is the form's (R82). -/
structure HasForm (f : Form) (i : Instr) : Prop where
  opcode : i.opcode = some f.opcode
  count : ∀ cross, (cycles f.opcode cross).toNat = f.base + (if f.penalty && cross then 1 else 0)

namespace HasForm

variable {forms : List Form} {r : OpcodeRow} {f : Form} {i : Instr}

/-- A read operand in a mode of the rule's list gives its instruction that form. -/
theorem ofSource {o : Source} (hop : i.opcode = r.source o) (hr : formsMatch forms r = true) (hf : f ∈ forms)
    (hmode : o.mode = f.mode) : HasForm f i := by
  obtain ⟨hrow, hcount⟩ := formsMatch_form hr hf
  exact ⟨by rw [hop, row_source, hmode, hrow], hcount⟩

/-- So does a memory operand. -/
theorem ofAddress {m : Address} (hop : i.opcode = r.address m) (hr : formsMatch forms r = true) (hf : f ∈ forms)
    (hmode : m.mode = f.mode) : HasForm f i := by
  obtain ⟨hrow, hcount⟩ := formsMatch_form hr hf
  exact ⟨by rw [hop, row_address, hmode, hrow], hcount⟩

theorem completes (h : HasForm f i) {cross : Bool} {u : State} :
    complete i cross u = .next (u.setT (cycles f.opcode cross)) := complete_of_opcode h.opcode cross u

/-- Updates that leave PC past the instruction's bytes end it as its form says. -/
theorem ends (h : HasForm f i) {cross : Bool} {s u : State} (hpc : u.pc = (advance i s).pc) :
    Ends f i cross s (u.setT (cycles f.opcode cross)) := by
  refine ⟨h.opcode, ?_, h.count cross⟩
  rw [setT_pc, hpc, advance_eq, setPc_pc, BitVec.toNat_add, BitVec.toNat_ofNat, Nat.add_mod_mod]

end HasForm

end Sys2Proof.Machine
end

section
/-! SUPPORT. Loads and stores (R100 to R105): each meaning is one chain of updates after its operand is read or its
address resolved, and its form's end. -/

namespace Sys2Proof.Machine

open OpcodeTable

/-! ### Loads -/

/-- The state in which an instruction has its read operand: PC is past its bytes and the operand's reads are made. -/
def operandRead (i : Instr) (o : Source) (s : State) : State := (advance i s).setBus (s.bus ++ operandReads o s)

/-- An instruction reads its operand as the state before it gives it: advancing PC first makes no difference. -/
theorem loadSource_advance (i : Instr) (o : Source) (s : State) :
    loadSource o (advance i s) = ⟨valueOf o s, crossOf o s, operandRead i o s⟩ := by
  have hfields : loadSource o (advance i s) = ⟨(loadSource o (advance i s)).value,
      (loadSource o (advance i s)).cross, (loadSource o (advance i s)).state⟩ := rfl
  rw [hfields]
  simp [operandRead]

theorem exec_lda (o : Source) (s : State) :
    exec (.lda o) s = complete (.lda o) (crossOf o s)
      (((operandRead (.lda o) o s).setA (valueOf o s)).setNZ (valueOf o s)) := by
  simp only [exec, execLda, loadSource_advance]

theorem exec_ldx (o : Source) (s : State) :
    exec (.ldx o) s = complete (.ldx o) (crossOf o s)
      (((operandRead (.ldx o) o s).setX (valueOf o s)).setNZ (valueOf o s)) := by
  simp only [exec, execLdx, loadSource_advance]

theorem exec_ldy (o : Source) (s : State) :
    exec (.ldy o) s = complete (.ldy o) (crossOf o s)
      (((operandRead (.ldy o) o s).setY (valueOf o s)).setNZ (valueOf o s)) := by
  simp only [exec, execLdy, loadSource_advance]

/-- Reading an operand changes nothing but PC and the access list. -/
theorem OnlyWrites.operandRead {w : Writes} {i : Instr} {o : Source} {s : State} :
    OnlyWrites w s (operandRead i o s) := advanced.setBus

/-- Settles O23: a load writes its register, N and Z after reading its operand. -/
theorem loadsSetRegisterAndNZ : Obligations.LoadsSetRegisterAndNZ := by
  unfold Obligations.LoadsSetRegisterAndNZ
  refine ⟨fun f hf o s hmode => ?_, fun f hf o s hmode => ?_, fun f hf o s hmode => ?_⟩
  · rw [exec_lda]
    have hform : HasForm f (.lda o) := .ofSource (r := rowLDA) rfl (by decide) hf hmode
    exact ⟨_, hform.completes, rfl, setNZ_hasNZ _ _, OnlyWrites.operandRead.setA.setNZ.setT, hform.ends rfl, rfl⟩
  · rw [exec_ldx]
    have hform : HasForm f (.ldx o) := .ofSource (r := rowLDX) rfl (by decide) hf hmode
    exact ⟨_, hform.completes, rfl, setNZ_hasNZ _ _, OnlyWrites.operandRead.setX.setNZ.setT, hform.ends rfl, rfl⟩
  · rw [exec_ldy]
    have hform : HasForm f (.ldy o) := .ofSource (r := rowLDY) rfl (by decide) hf hmode
    exact ⟨_, hform.completes, rfl, setNZ_hasNZ _ _, OnlyWrites.operandRead.setY.setNZ.setT, hform.ends rfl, rfl⟩

/-! ### Stores -/

/-- The state after an instruction stores a byte: PC is past its bytes, the pointer reads are made, and then the one
write at the effective address. -/
def stored (i : Instr) (m : Address) (v : Byte) (s : State) : State :=
  memWrite (ea m s) v ((advance i s).setBus (s.bus ++ pointerReads m s))

/-- An instruction stores where the state before it says: advancing PC first makes no difference. -/
theorem storeAddress_advance (i : Instr) (m : Address) (v : Byte) (s : State) :
    storeAddress m v (advance i s) = ⟨(resolve m s).cross, stored i m v s⟩ := by
  simp [stored]

theorem exec_sta (m : Address) (s : State) :
    exec (.sta m) s = complete (.sta m) (resolve m s).cross (stored (.sta m) m s.a s) := by
  simp only [exec, execSta, storeAddress_advance]

theorem exec_stx (m : Address) (s : State) :
    exec (.stx m) s = complete (.stx m) (resolve m s).cross (stored (.stx m) m s.x s) := by
  simp only [exec, execStx, storeAddress_advance]

theorem exec_sty (m : Address) (s : State) :
    exec (.sty m) s = complete (.sty m) (resolve m s).cross (stored (.sty m) m s.y s) := by
  simp only [exec, execSty, storeAddress_advance]

/-- A store in a form of its rule completes with the byte at the effective address, nothing else changed, and the
pointer reads and the write as its accesses. -/
theorem store_completes {f : Form} {i : Instr} (hform : HasForm f i) (m : Address) (v : Byte) (s : State) :
    ∃ t, complete i (resolve m s).cross (stored i m v s) = .next t ∧ t.peek (ea m s) = v ∧
      OnlyWrites { stores := [ea m s] } s t ∧ Ends f i (resolve m s).cross s t ∧
      t.bus = s.bus ++ pointerReads m s ++ [.write (ea m s) v] := by
  have hpeek : (stored i m v s).peek (ea m s) = v := by rw [stored, memWrite_peek, if_pos rfl]
  have hframe : OnlyWrites { stores := [ea m s] } s (stored i m v s) :=
    OnlyWrites.advanced.setBus.memWrite (List.mem_singleton_self _)
  exact ⟨_, hform.completes, hpeek, hframe.setT, hform.ends rfl, rfl⟩

/-- Settles O24: each store is one write of its register at the effective address. -/
theorem storesWriteOneByte : Obligations.StoresWriteOneByte := by
  unfold Obligations.StoresWriteOneByte
  refine ⟨fun f hf m s hmode => ?_, fun f hf m s hmode => ?_, fun f hf m s hmode => ?_⟩
  · rw [exec_sta]
    exact store_completes (.ofAddress (r := rowSTA) rfl (by decide) hf hmode) m s.a s
  · rw [exec_stx]
    exact store_completes (.ofAddress (r := rowSTX) rfl (by decide) hf hmode) m s.x s
  · rw [exec_sty]
    exact store_completes (.ofAddress (r := rowSTY) rfl (by decide) hf hmode) m s.y s

end Sys2Proof.Machine
end

section
/-! SUPPORT. Register transfers and stack instructions (R120 to R129): each is one chain of updates after PC advances
past its one byte, and its form's end. -/

namespace Sys2Proof.Machine

/-! ### Updates of S and of P as a whole -/

namespace OnlyWrites

variable {w : Writes} {s u : State}

theorem setSp (h : OnlyWrites w s u) {v : Byte} (hw : w.sp = true := by rfl) : OnlyWrites w s (u.setSp v) := by
  obtain ⟨ha, hx, hy, -, hflag, hpeek, hcfg, hdraws⟩ := h
  exact ⟨ha, hx, hy, fun hno => absurd hw (by simp [hno]), hflag, hpeek, hcfg, hdraws⟩

/-- P is loaded as a whole where `w` names every flag. -/
theorem loadP (h : OnlyWrites w s u) {p : Byte} (hw : ∀ f, f ∈ w.flags) : OnlyWrites w s (u.setP p) :=
  h.setP fun f hf => absurd (hw f) hf

theorem push (h : OnlyWrites w s u) {v : Byte} (ha : stackAddr u.sp ∈ w.stores) (hw : w.sp = true := by rfl) :
    OnlyWrites w s (push v u) :=
  (h.memWrite ha).setSp hw

theorem pull (h : OnlyWrites w s u) (hw : w.sp = true := by rfl) : OnlyWrites w s (pull u).2 :=
  (h.setSp hw).setBus

end OnlyWrites

/-- An instruction has the one-byte form of its opcode when the timing table gives that opcode the form's count. -/
theorem HasForm.ofOneByte {mode : Mode} {op : Byte} {base : Nat} {i : Instr} (hop : i.opcode = some op := by rfl)
    (hcount : ∀ cross, (cycles op cross).toNat = base := by decide) : HasForm (oneByte mode op base) i :=
  ⟨hop, hcount⟩

/-! ### Transfers -/

open OnlyWrites in
/-- Settles O25: a transfer writes one register, and N and Z but for TXS. -/
theorem transfersCopyOneRegister : Obligations.TransfersCopyOneRegister := by
  unfold Obligations.TransfersCopyOneRegister
  intro s
  refine ⟨?tax, ?tay, ?txa, ?tya, ?tsx, ?txs⟩
  case tax =>
    have hform : HasForm (oneByte .impl 0xAA 2) .tax := .ofOneByte
    exact ⟨_, hform.completes, rfl, setNZ_hasNZ _ _, advanced.setX.setNZ.setT, hform.ends rfl, rfl⟩
  case tay =>
    have hform : HasForm (oneByte .impl 0xA8 2) .tay := .ofOneByte
    exact ⟨_, hform.completes, rfl, setNZ_hasNZ _ _, advanced.setY.setNZ.setT, hform.ends rfl, rfl⟩
  case txa =>
    have hform : HasForm (oneByte .impl 0x8A 2) .txa := .ofOneByte
    exact ⟨_, hform.completes, rfl, setNZ_hasNZ _ _, advanced.setA.setNZ.setT, hform.ends rfl, rfl⟩
  case tya =>
    have hform : HasForm (oneByte .impl 0x98 2) .tya := .ofOneByte
    exact ⟨_, hform.completes, rfl, setNZ_hasNZ _ _, advanced.setA.setNZ.setT, hform.ends rfl, rfl⟩
  case tsx =>
    have hform : HasForm (oneByte .impl 0xBA 2) .tsx := .ofOneByte
    exact ⟨_, hform.completes, rfl, setNZ_hasNZ _ _, advanced.setX.setNZ.setT, hform.ends rfl, rfl⟩
  case txs =>
    have hform : HasForm (oneByte .impl 0x9A 2) .txs := .ofOneByte
    exact ⟨_, hform.completes, rfl, advanced.setSp.setT, hform.ends rfl, rfl⟩

/-! ### Pushes -/

/-- An instruction that pushes a byte completes with the byte at the old top of the stack, S one lower, nothing else
changed, and that write as its one access (R46). -/
theorem push_completes {f : Form} {i : Instr} (hform : HasForm f i) (v : Byte) (s : State) :
    ∃ t, complete i false (push v (advance i s)) = .next t ∧ t.peek (stackAddr s.sp) = v ∧ t.sp = s.sp - 1 ∧
      t.p = s.p ∧ OnlyWrites { sp := true, stores := [stackAddr s.sp] } s t ∧ Ends f i false s t ∧
      t.bus = s.bus ++ [.write (stackAddr s.sp) v] := by
  have hpeek : (push v (advance i s)).peek (stackAddr s.sp) = v := by simp [push_eq]
  have hframe : OnlyWrites { sp := true, stores := [stackAddr s.sp] } s (push v (advance i s)) :=
    OnlyWrites.advanced.push (List.mem_singleton_self _)
  exact ⟨_, hform.completes, hpeek, rfl, rfl, hframe.setT, hform.ends rfl, rfl⟩

/-- Settles O26: PHA and PHP are one push each, of A and of the copy of P with B and U set. -/
theorem pushInstructionsWriteTheStack : Obligations.PushInstructionsWriteTheStack := by
  unfold Obligations.PushInstructionsWriteTheStack
  intro s
  constructor
  · have hform : HasForm (oneByte .impl 0x48 3) .pha := .ofOneByte
    obtain ⟨t, hnext, hpeek, hsp, -, hrest⟩ := push_completes hform s.a s
    exact ⟨t, hnext, hpeek, hsp, hrest⟩
  · have hform : HasForm (oneByte .impl 0x08 3) .php := .ofOneByte
    exact push_completes hform (pushedByInstruction s.p) s

/-! ### Pulls -/

open OnlyWrites in
/-- Settles O27: PLA and PLP are one pull each, into A with N and Z, and into P by `pullP`. -/
theorem pullInstructionsReadTheStack : Obligations.PullInstructionsReadTheStack := by
  unfold Obligations.PullInstructionsReadTheStack
  intro s
  constructor
  · have hform : HasForm (oneByte .impl 0x68 4) .pla := .ofOneByte
    exact ⟨_, hform.completes, rfl, setNZ_hasNZ _ _, rfl, advanced.pull.setA.setNZ.setT, hform.ends rfl, rfl⟩
  · have hform : HasForm (oneByte .impl 0x28 4) .plp := .ofOneByte
    have hall : ∀ f : Flag, f ∈ [Flag.C, .Z, .I, .D, .B, .U, .V, .N] := fun f => by cases f <;> decide
    exact ⟨_, hform.completes, rfl, rfl, (advanced.pull.loadP hall).setT, hform.ends rfl, rfl⟩

end Sys2Proof.Machine
end

section
/-! SUPPORT. ADC and SBC (R140 to R146): each meaning is one chain of updates after its operand is read, whatever
computes its result. -/

namespace Sys2Proof.Machine

open OpcodeTable

/-- The result of ADC: binary or decimal by the D flag (R141 to R143). -/
def adcResult (m : Byte) (s : State) : AluResult :=
  if s.flag .D then adcDecimal s.cfg.decimalFlags s.a m (s.flag .C) else adcBinary s.a m (s.flag .C)

theorem adcResult_binary {s : State} (hD : s.flag .D = false) (m : Byte) :
    adcResult m s = adcBinary s.a m (s.flag .C) := by
  rw [adcResult, hD, if_neg Bool.false_ne_true]

theorem adcResult_decimal {s : State} (hD : s.flag .D = true) (m : Byte) :
    adcResult m s = adcDecimal s.cfg.decimalFlags s.a m (s.flag .C) := by
  rw [adcResult, if_pos hD]

theorem sbcResult_binary {s : State} (hD : s.flag .D = false) (m : Byte) :
    sbcResult m s = sbcBinary s.a m (s.flag .C) := by
  rw [sbcResult, hD, if_neg Bool.false_ne_true]

theorem sbcResult_fixed {s : State} (hD : s.flag .D = true) (hfixed : s.cfg.sbcArgBug = .fixed) (m : Byte) :
    sbcResult m s = sbcDecimal s.cfg.decimalFlags s.a m (s.flag .C) := by
  rw [sbcResult, if_pos hD, hfixed]

theorem sbcDraws_binary {s : State} (hD : s.flag .D = false) : sbcDraws s = 0 := by
  rw [sbcDraws, hD, if_neg Bool.false_ne_true]

theorem sbcDraws_fixed {s : State} (hD : s.flag .D = true) (hfixed : s.cfg.sbcArgBug = .fixed) : sbcDraws s = 0 := by
  rw [sbcDraws, if_pos hD, hfixed]

theorem exec_adc (o : Source) (s : State) :
    exec (.adc o) s = complete (.adc o) (crossOf o s)
      ((operandRead (.adc o) o s).setAlu (adcResult (valueOf o s) s)) := by
  simp only [exec, execAdc, loadSource_advance, adcResult]

theorem exec_sbc (o : Source) (s : State) :
    exec (.sbc o) s = complete (.sbc o) (crossOf o s)
      (((operandRead (.sbc o) o s).setAlu (sbcResult (valueOf o s) s)).setDraws (s.draws + sbcDraws s)) := by
  simp only [exec, execSbc, loadSource_advance]

/-- An SBC that draws no free value leaves the count of them. -/
theorem exec_sbc_of_no_draws {s : State} (h : sbcDraws s = 0) (o : Source) :
    exec (.sbc o) s = complete (.sbc o) (crossOf o s)
      ((operandRead (.sbc o) o s).setAlu (sbcResult (valueOf o s) s)) := by
  rw [exec_sbc, h]
  rfl

theorem OnlyWrites.setAlu {w : Writes} {s u : State} (h : OnlyWrites w s u) {r : AluResult}
    (hA : w.a = true := by rfl) (hflags : ∀ f ∈ [Flag.N, .V, .Z, .C], f ∈ w.flags := by decide) :
    OnlyWrites w s (u.setAlu r) := by
  refine (h.setA hA).setP fun f hf => ?_
  have hne : ∀ g ∈ [Flag.N, .V, .Z, .C], f ≠ g := fun g hg he => hf (he ▸ hflags g hg)
  rw [flagOf_withAluFlags, if_neg (hne .C (by decide)), if_neg (hne .Z (by decide)), if_neg (hne .V (by decide)),
    if_neg (hne .N (by decide))]
  rfl

/-- A state has A and the flags N, V, Z and C of a result. -/
structure HasResult (t : State) (r : AluResult) : Prop where
  a : t.a = r.value
  n : t.flag .N = r.n
  v : t.flag .V = r.v
  z : t.flag .Z = r.z
  c : t.flag .C = r.c

theorem setAlu_hasResult (u : State) (r : AluResult) : HasResult (u.setAlu r) r where
  a := rfl
  n := by rw [setAlu_flag, if_neg (by decide), if_neg (by decide), if_neg (by decide), if_pos rfl]
  v := by rw [setAlu_flag, if_neg (by decide), if_neg (by decide), if_pos rfl]
  z := by rw [setAlu_flag, if_neg (by decide), if_pos rfl]
  c := by rw [setAlu_flag, if_pos rfl]

theorem HasResult.setT {t : State} {r : AluResult} (h : HasResult t r) {v : Byte} : HasResult (t.setT v) r :=
  ⟨h.a, h.n, h.v, h.z, h.c⟩

theorem HasResult.setDraws {t : State} {r : AluResult} (h : HasResult t r) {n : Nat} : HasResult (t.setDraws n) r :=
  ⟨h.a, h.n, h.v, h.z, h.c⟩

/-- N and Z are those of a byte when the result took them from it. -/
theorem HasResult.hasNZ {t : State} {r : AluResult} (h : HasResult t r) {v : Byte} (hn : r.n = negative v := by rfl)
    (hz : r.z = isZero v := by rfl) : HasNZ t v :=
  ⟨h.n.trans hn, by rw [h.z, hz, isZero_eq]⟩

/-- The same where that byte is the new A. -/
theorem HasResult.hasNZ_a {t : State} {r : AluResult} (h : HasResult t r) (hn : r.n = negative r.value := by rfl)
    (hz : r.z = isZero r.value := by rfl) : HasNZ t t.a := by
  rw [h.a]
  exact h.hasNZ hn hz

/-- An instruction that takes a result from its operand completes in its form with that result, nothing else changed,
and the operand's reads as its accesses. -/
theorem alu_completes {f : Form} {i : Instr} (hform : HasForm f i) (o : Source) (r : AluResult) (s : State) :
    ∃ t, complete i (crossOf o s) ((operandRead i o s).setAlu r) = .next t ∧ HasResult t r ∧
      OnlyWrites { a := true, flags := [.N, .V, .Z, .C] } s t ∧ Ends f i (crossOf o s) s t ∧
      t.bus = s.bus ++ operandReads o s :=
  ⟨_, hform.completes, (setAlu_hasResult (operandRead i o s) r).setT, OnlyWrites.operandRead.setAlu.setT,
    hform.ends rfl, rfl⟩

theorem adc_completes {f : Form} (hf : f ∈ adcForms) {o : Source} (hmode : o.mode = f.mode) (s : State) :
    ∃ t, exec (.adc o) s = .next t ∧ HasResult t (adcResult (valueOf o s) s) ∧
      OnlyWrites { a := true, flags := [.N, .V, .Z, .C] } s t ∧ Ends f (.adc o) (crossOf o s) s t ∧
      t.bus = s.bus ++ operandReads o s := by
  have hform : HasForm f (.adc o) := .ofSource (r := rowADC) rfl (by decide) hf hmode
  rw [exec_adc]
  exact alu_completes hform o _ s

/-- SBC completes likewise where it draws no free value. -/
theorem sbc_completes {f : Form} (hf : f ∈ sbcForms) {o : Source} (hmode : o.mode = f.mode) {s : State}
    (hdraws : sbcDraws s = 0) :
    ∃ t, exec (.sbc o) s = .next t ∧ HasResult t (sbcResult (valueOf o s) s) ∧
      OnlyWrites { a := true, flags := [.N, .V, .Z, .C] } s t ∧ Ends f (.sbc o) (crossOf o s) s t ∧
      t.bus = s.bus ++ operandReads o s := by
  have hform : HasForm f (.sbc o) := .ofSource (r := rowSBC) rfl (by decide) hf hmode
  rw [exec_sbc_of_no_draws hdraws]
  exact alu_completes hform o _ s

/-! Whatever next state there is has the result, in a form of the rule or not. -/

theorem exec_adc_hasResult {o : Source} {s t : State} (h : exec (.adc o) s = .next t) :
    HasResult t (adcResult (valueOf o s) s) := by
  rw [exec_adc] at h
  obtain ⟨op, -, rfl⟩ := complete_next h
  exact (setAlu_hasResult _ _).setT

theorem exec_sbc_hasResult {o : Source} {s t : State} (h : exec (.sbc o) s = .next t) :
    HasResult t (sbcResult (valueOf o s) s) := by
  rw [exec_sbc] at h
  obtain ⟨op, -, rfl⟩ := complete_next h
  exact (setAlu_hasResult _ _).setDraws.setT

end Sys2Proof.Machine
end

section
/-! SUPPORT. Binary ADC and SBC (R140, R141, R144): the sum and the difference as numbers, SBC as ADC of the complement,
and V as two's-complement overflow. -/

namespace Sys2Proof.Machine

/-! ### Bytes as signed numbers -/

/-- A byte is negative in the upper half of its values. -/
theorem negative_eq (v : Byte) : negative v = decide (128 ≤ v.toNat) :=
  (BitVec.msb_eq_getLsbD_last v).symm.trans (BitVec.msb_eq_decide v)

theorem toInt_eq_of_negative (v : Byte) : v.toInt = if negative v then (v.toNat : Int) - 256 else v.toNat := by
  rw [BitVec.toInt_eq_msb_cond, BitVec.msb_eq_getLsbD_last]
  rfl

theorem xor_ff_toNat (m : Byte) : (m ^^^ 0xFF).toNat = 255 - m.toNat := by
  have hnot : m ^^^ 0xFF = ~~~m := BitVec.xor_allOnes
  rw [hnot, BitVec.toNat_not]

theorem xor_ff_toInt (m : Byte) : (m ^^^ 0xFF).toInt = -m.toInt - 1 := by
  have := m.isLt
  simp only [BitVec.toInt_eq_toNat_cond, xor_ff_toNat]
  omega

/-! ### The sum -/

theorem adcBinary_value_toNat (a m : Byte) (cin : Bool) :
    (adcBinary a m cin).value.toNat = (a.toNat + m.toNat + cin.toNat) % 256 := BitVec.toNat_ofNat _ _

/-- R141's formula for V is set exactly when the signed sum does not fit in eight bits. -/
theorem adcBinary_v_iff (a m : Byte) (cin : Bool) :
    (adcBinary a m cin).v = true ↔
      a.toInt + m.toInt + cin.toNat < -128 ∨ 127 < a.toInt + m.toInt + cin.toNat := by
  have hsum := adcBinary_value_toNat a m cin
  have hv : (adcBinary a m cin).v =
      ((negative a ^^ negative (adcBinary a m cin).value) && (negative m ^^ negative (adcBinary a m cin).value)) := by
    simp [adcBinary, addOverflow, negative]
  have := a.isLt
  have := m.isLt
  have := cin.toNat_le
  simp only [hv, negative_eq, toInt_eq_of_negative, hsum, Bool.and_eq_true, bne_iff_ne, decide_eq_decide, ne_eq,
    decide_eq_true_eq]
  omega

/-! ### The difference -/

theorem sbcBinary_value_toNat (a m : Byte) (cin : Bool) :
    ((sbcBinary a m cin).value.toNat : Int) = ((a.toNat : Int) - m.toNat - (1 - cin.toNat)) % 256 := by
  have hvalue : (sbcBinary a m cin).value.toNat = (subDifference a m cin % (2 ^ 8 : Nat)).toNat := BitVec.toNat_ofInt _
  rw [hvalue, subDifference]
  omega

/-- Subtracting M is adding its complement (R144). -/
theorem subDifference_eq (a m : Byte) (cin : Bool) :
    subDifference a m cin = (addSum a (m ^^^ 0xFF) cin : Int) - 256 := by
  have := m.isLt
  rw [subDifference, addSum, xor_ff_toNat]
  omega

/-- R144: SBC equals ADC of the complemented operand, in A and every flag. -/
theorem sbcBinary_eq_adcBinary (a m : Byte) (cin : Bool) : sbcBinary a m cin = adcBinary a (m ^^^ 0xFF) cin := by
  have hdiff := subDifference_eq a m cin
  have hvalue : BitVec.ofInt 8 (subDifference a m cin) = BitVec.ofNat 8 (addSum a (m ^^^ 0xFF) cin) := by
    apply BitVec.eq_of_toNat_eq
    rw [hdiff, BitVec.toNat_ofInt, BitVec.toNat_ofNat]
    omega
  have hV : ∀ r, subOverflow a m r = addOverflow a (m ^^^ 0xFF) r := fun r => by
    simp only [subOverflow, addOverflow, negative, BitVec.getLsbD_and, BitVec.getLsbD_xor]
    cases a.getLsbD 7 <;> cases m.getLsbD 7 <;> cases r.getLsbD 7 <;> rfl
  have hC : decide (0 ≤ subDifference a m cin) = decide (255 < addSum a (m ^^^ 0xFF) cin) := by
    rw [hdiff, decide_eq_decide]
    omega
  simp only [sbcBinary, adcBinary, hvalue, hV, hC]

/-- R144's formula for V is set exactly when the signed difference does not fit in eight bits. -/
theorem sbcBinary_v_iff (a m : Byte) (cin : Bool) :
    (sbcBinary a m cin).v = true ↔
      a.toInt - m.toInt - (1 - cin.toNat) < -128 ∨ 127 < a.toInt - m.toInt - (1 - cin.toNat) := by
  rw [sbcBinary_eq_adcBinary, adcBinary_v_iff, xor_ff_toInt]
  omega

/-! ### The instructions -/

/-- Settles O28: ADC with D clear completes with the result of `adcBinary`. -/
theorem adcBinaryAddsWithCarry : Obligations.AdcBinaryAddsWithCarry := by
  unfold Obligations.AdcBinaryAddsWithCarry
  intro f hf o s hmode hD
  obtain ⟨t, hnext, hresult, hrest⟩ := adc_completes hf hmode s
  rw [adcResult_binary hD] at hresult
  have hV : t.flag .V = addOverflow s.a (valueOf o s) t.a := by rw [hresult.v, hresult.a]; rfl
  exact ⟨t, hnext, by rw [hresult.a, adcBinary_value_toNat], hresult.c, hV, hresult.hasNZ_a, hrest⟩

/-- Settles O29: SBC with D clear completes with the result of `sbcBinary`. -/
theorem sbcBinarySubtractsWithBorrow : Obligations.SbcBinarySubtractsWithBorrow := by
  unfold Obligations.SbcBinarySubtractsWithBorrow
  intro f hf o s hmode hD
  obtain ⟨t, hnext, hresult, hrest⟩ := sbc_completes hf hmode (sbcDraws_binary hD)
  rw [sbcResult_binary hD] at hresult
  have hV : t.flag .V = subOverflow s.a (valueOf o s) t.a := by rw [hresult.v, hresult.a]; rfl
  exact ⟨t, hnext, by rw [hresult.a, sbcBinary_value_toNat], hresult.c, hV, hresult.hasNZ_a,
    sbcBinary_eq_adcBinary _ _ _, hrest⟩

/-- Settles O30: V of the sum, and of the difference as the sum with the complement. -/
theorem overflowIsSignedOverflow : Obligations.OverflowIsSignedOverflow := by
  unfold Obligations.OverflowIsSignedOverflow
  intro o s t hD
  refine ⟨fun hadc => ?_, fun hsbc => ?_⟩
  · rw [(exec_adc_hasResult hadc).v, adcResult_binary hD, adcBinary_v_iff]
  · rw [(exec_sbc_hasResult hsbc).v, sbcResult_binary hD, sbcBinary_v_iff]

end Sys2Proof.Machine
end

section
/-! SUPPORT. Decimal ADC and SBC (R142, R143, R145, R146): the nibble formulas as numbers, and the published NMOS
sequences beside them. -/

namespace Sys2Proof.Machine

/-! ### ADC -/

/-- The published NMOS sequence's low part `al`, with the low nibble's carry at 16 (R142). -/
def adcPublishedLow (a m : Byte) (cin : Bool) : Nat :=
  let al := lowNibble a + lowNibble m + cin.toNat
  if 10 ≤ al then (al + 6) % 16 + 16 else al

/-- The published NMOS sequence's sum `a1` after its correction (R142). -/
def adcPublished (a m : Byte) (cin : Bool) : Nat :=
  let a1 := highNibble a * 16 + highNibble m * 16 + adcPublishedLow a m cin
  if 0xA0 ≤ a1 then a1 + 0x60 else a1

/-- The low part is the low nibble of R142's formula, and the carry out of it. -/
theorem adcPublishedLow_eq (a m : Byte) (cin : Bool) :
    adcPublishedLow a m cin = adcLow a m cin % 16 + (if 15 < adcLow a m cin then 16 else 0) := by
  by_cases hcorrected : 9 < lowNibble a + lowNibble m + cin.toNat
  · have hlow : adcLow a m cin = lowNibble a + lowNibble m + cin.toNat + 6 := if_pos hcorrected
    have hpublished : adcPublishedLow a m cin = (lowNibble a + lowNibble m + cin.toNat + 6) % 16 + 16 :=
      if_pos hcorrected
    rw [hpublished, if_pos (by omega)]
    omega
  · have hlow : adcLow a m cin = lowNibble a + lowNibble m + cin.toNat := if_neg hcorrected
    have hpublished : adcPublishedLow a m cin = lowNibble a + lowNibble m + cin.toNat := if_neg hcorrected
    rw [hpublished, if_neg (by omega)]
    omega

/-- The published sum before its correction holds R142's uncorrected high nibble above the corrected low one. -/
theorem adcHigh_adcLow_eq_published (a m : Byte) (cin : Bool) :
    highNibble a * 16 + highNibble m * 16 + adcPublishedLow a m cin =
      (highNibble a + highNibble m + (if 15 < adcLow a m cin then 1 else 0)) * 16 + adcLow a m cin % 16 := by
  rw [adcPublishedLow_eq]
  split <;> omega

/-- The published sum's high part is R142's corrected high nibble. -/
theorem adcPublished_eq (a m : Byte) (cin : Bool) :
    adcPublished a m cin = adcHigh a m cin * 16 + adcLow a m cin % 16 := by
  simp only [adcPublished, adcHigh, adcHigh_adcLow_eq_published]
  generalize highNibble a + highNibble m + (if 15 < adcLow a m cin then 1 else 0) = high
  by_cases hcorrected : 9 < high
  · rw [if_pos hcorrected, if_pos (by omega)]
    omega
  · rw [if_neg hcorrected, if_neg (by omega)]

theorem adcDecimalValue_toNat (a m : Byte) (cin : Bool) :
    (adcDecimalValue a m cin).toNat = adcHigh a m cin % 16 * 16 + adcLow a m cin % 16 := by
  rw [adcDecimalValue, BitVec.toNat_ofNat]
  omega

/-- The published sequence agrees on A, for all inputs (R142). -/
theorem adcDecimalValue_eq_published (a m : Byte) (cin : Bool) :
    (adcDecimalValue a m cin).toNat = adcPublished a m cin % 256 := by
  rw [adcDecimalValue_toNat, adcPublished_eq]
  omega

/-- It agrees on C too (R142). -/
theorem adcHigh_carry_eq_published (a m : Byte) (cin : Bool) :
    decide (15 < adcHigh a m cin) = decide (0x100 ≤ adcPublished a m cin) := by
  rw [adcPublished_eq, decide_eq_decide]
  omega

/-- A and C are those of the formula whatever the flags' parameter is (R142). -/
@[simp] theorem adcDecimal_value (flags : DecimalFlags) (a m : Byte) (cin : Bool) :
    (adcDecimal flags a m cin).value = adcDecimalValue a m cin := by
  cases flags <;> rfl

@[simp] theorem adcDecimal_c (flags : DecimalFlags) (a m : Byte) (cin : Bool) :
    (adcDecimal flags a m cin).c = decide (15 < adcHigh a m cin) := by
  cases flags <;> rfl

/-- The sign of an exact number narrowed to a byte. -/
theorem negative_ofInt (n : Int) : negative (BitVec.ofInt 8 n) = decide (128 ≤ n % 256) := by
  rw [negative_eq, BitVec.toNat_ofInt, decide_eq_decide]
  omega

theorem isZero_ofNat (n : Nat) : isZero (BitVec.ofNat 8 n) = decide (n % 256 = 0) := by
  rw [isZero_eq, BitVec.toNat_ofNat]

/-- Settles O31: ADC with D set completes with the result of `adcDecimal`. -/
theorem adcDecimalFollowsTheNibbles : Obligations.AdcDecimalFollowsTheNibbles := by
  unfold Obligations.AdcDecimalFollowsTheNibbles
  intro f hf o s hmode hD
  obtain ⟨t, hnext, hresult, hrest⟩ := adc_completes hf hmode s
  rw [adcResult_decimal hD] at hresult
  have hA : t.a = adcDecimalValue s.a (valueOf o s) (s.flag .C) := by rw [hresult.a, adcDecimal_value]
  have hC : t.flag .C = decide (15 < adcHigh s.a (valueOf o s) (s.flag .C)) := by rw [hresult.c, adcDecimal_c]
  have hformula := adcDecimalValue_toNat s.a (valueOf o s) (s.flag .C)
  have hpublished := adcDecimalValue_eq_published s.a (valueOf o s) (s.flag .C)
  have hcarry := hC.trans (adcHigh_carry_eq_published _ _ _)
  rw [← hA] at hformula hpublished
  refine ⟨t, hnext, ⟨hformula, hC, hpublished, hcarry, ?_⟩, hrest⟩
  cases hflags : s.cfg.decimalFlags with
  | doc =>
    rw [hflags] at hresult
    exact ⟨hresult.v, hresult.hasNZ_a⟩
  | nmos =>
    rw [hflags] at hresult
    have hZ : t.flag .Z = decide (addSum s.a (valueOf o s) (s.flag .C) % 256 = 0) := hresult.z.trans (isZero_ofNat _)
    exact ⟨hresult.n.trans (negative_ofInt _), hresult.v.trans (Bool.decide_or _ _).symm, hZ⟩

/-! ### SBC -/

/-- The published NMOS sequence's low part `al`, with the low nibble's borrow at -16 (R145). -/
def sbcPublishedLow (a m : Byte) (cin : Bool) : Int :=
  let al := (a.toNat : Int) % 16 - (m.toNat : Int) % 16 + cin.toNat - 1
  if al < 0 then (al - 6) % 16 - 16 else al

/-- The published NMOS sequence's difference `a1` after its correction (R145). -/
def sbcPublished (a m : Byte) (cin : Bool) : Int :=
  let a1 := (a.toNat : Int) / 16 * 16 - (m.toNat : Int) / 16 * 16 + sbcPublishedLow a m cin
  if a1 < 0 then a1 - 0x60 else a1

theorem sbcLow_eq (a m : Byte) (cin : Bool) :
    sbcLow a m cin = (a.toNat : Int) % 16 - (m.toNat : Int) % 16 - (1 - (cin.toNat : Int)) := rfl

theorem sbcHigh_eq (a m : Byte) (cin : Bool) :
    sbcHigh a m cin = if sbcLow a m cin < 0 then (a.toNat : Int) / 16 - (m.toNat : Int) / 16 - 1
      else (a.toNat : Int) / 16 - (m.toNat : Int) / 16 := by
  rw [sbcHigh, apply_ite ((highNibble a : Int) - highNibble m - ·), Int.sub_zero]
  rfl

/-- The low part is the corrected low nibble of R145's formula, and its borrow. -/
theorem sbcPublishedLow_eq (a m : Byte) (cin : Bool) :
    sbcPublishedLow a m cin = sbcCorrected (sbcLow a m cin) % 16 - (if sbcLow a m cin < 0 then 16 else 0) := by
  have := cin.toNat_le
  have hal : (a.toNat : Int) % 16 - (m.toNat : Int) % 16 + cin.toNat - 1 = sbcLow a m cin := by
    rw [sbcLow_eq]
    omega
  have hrange : sbcLow a m cin < 16 := by omega
  simp only [sbcPublishedLow, hal, sbcCorrected]
  split <;> omega

/-- The published difference before its correction holds R145's high nibble above the corrected low one. -/
theorem sbcHigh_sbcLow_eq_published (a m : Byte) (cin : Bool) :
    (a.toNat : Int) / 16 * 16 - (m.toNat : Int) / 16 * 16 + sbcPublishedLow a m cin =
      sbcHigh a m cin * 16 + sbcCorrected (sbcLow a m cin) % 16 := by
  rw [sbcPublishedLow_eq, sbcHigh_eq]
  split <;> omega

/-- The published difference's high part is R145's corrected high nibble. -/
theorem sbcPublished_eq (a m : Byte) (cin : Bool) :
    sbcPublished a m cin = sbcCorrected (sbcHigh a m cin) * 16 + sbcCorrected (sbcLow a m cin) % 16 := by
  simp only [sbcPublished, sbcHigh_sbcLow_eq_published]
  by_cases hborrow : sbcHigh a m cin < 0
  · have hhigh : sbcCorrected (sbcHigh a m cin) = sbcHigh a m cin - 6 := if_pos hborrow
    rw [hhigh, if_pos (by omega)]
    omega
  · have hhigh : sbcCorrected (sbcHigh a m cin) = sbcHigh a m cin := if_neg hborrow
    rw [hhigh, if_neg (by omega)]

theorem sbcDecimalValue_toNat (a m : Byte) (cin : Bool) :
    ((sbcDecimalValue a m cin).toNat : Int) =
      sbcCorrected (sbcHigh a m cin) % 16 * 16 + sbcCorrected (sbcLow a m cin) % 16 := by
  rw [sbcDecimalValue, BitVec.toNat_ofInt]
  omega

/-- The published sequence agrees on A, for all inputs (R145). -/
theorem sbcDecimalValue_eq_published (a m : Byte) (cin : Bool) :
    ((sbcDecimalValue a m cin).toNat : Int) = sbcPublished a m cin % 256 := by
  rw [sbcDecimalValue_toNat, sbcPublished_eq]
  omega

@[simp] theorem sbcDecimal_value (flags : DecimalFlags) (a m : Byte) (cin : Bool) :
    (sbcDecimal flags a m cin).value = sbcDecimalValue a m cin := by
  cases flags <;> rfl

/-- C and V are the binary ones whatever the flags' parameter is (R145, R146). -/
@[simp] theorem sbcDecimal_c (flags : DecimalFlags) (a m : Byte) (cin : Bool) :
    (sbcDecimal flags a m cin).c = (sbcBinary a m cin).c := by
  cases flags <;> rfl

@[simp] theorem sbcDecimal_v (flags : DecimalFlags) (a m : Byte) (cin : Bool) :
    (sbcDecimal flags a m cin).v = (sbcBinary a m cin).v := by
  cases flags <;> rfl

/-- Settles O33: SBC with D set and the rule fixed completes with the result of `sbcDecimal`. -/
theorem sbcDecimalFollowsTheNibbles : Obligations.SbcDecimalFollowsTheNibbles := by
  unfold Obligations.SbcDecimalFollowsTheNibbles
  intro f hf o s hmode hD hfixed
  obtain ⟨t, hnext, hresult, hrest⟩ := sbc_completes hf hmode (sbcDraws_fixed hD hfixed)
  rw [sbcResult_fixed hD hfixed] at hresult
  have hA : t.a = sbcDecimalValue s.a (valueOf o s) (s.flag .C) := by rw [hresult.a, sbcDecimal_value]
  have hC : t.flag .C = (sbcBinary s.a (valueOf o s) (s.flag .C)).c := by rw [hresult.c, sbcDecimal_c]
  have hV : t.flag .V = (sbcBinary s.a (valueOf o s) (s.flag .C)).v := by rw [hresult.v, sbcDecimal_v]
  have hformula := sbcDecimalValue_toNat s.a (valueOf o s) (s.flag .C)
  have hpublished := sbcDecimalValue_eq_published s.a (valueOf o s) (s.flag .C)
  rw [sbcHigh_eq, ← hA] at hformula
  rw [← hA] at hpublished
  refine ⟨t, hnext, ⟨hformula, hC, hpublished, hV, ?_⟩, hrest⟩
  cases hflags : s.cfg.decimalFlags with
  | doc =>
    rw [hflags] at hresult
    exact hresult.hasNZ_a
  | nmos =>
    rw [hflags] at hresult
    exact hresult.hasNZ

end Sys2Proof.Machine
end

section
/-! SUPPORT. INC, DEC, INX, INY, DEX and DEY (R151 to R156): one byte up or down by one, N and Z from it, and the form's
end. -/

namespace Sys2Proof.Machine

open OpcodeTable

/-! ### One more and one less -/

theorem toNat_add_one (v : Byte) : (v + 1).toNat = (v.toNat + 1) % 256 := BitVec.toNat_add v 1

theorem toNat_sub_one (v : Byte) : (v - 1).toNat = (v.toNat + 255) % 256 := by
  rw [BitVec.toNat_sub, Nat.add_comm]
  rfl

/-! ### Memory -/

/-- The state after an instruction reads and rewrites a byte of memory: PC is past its bytes, the pointer reads are
made, and then one read and one write at the effective address (R53). -/
def modified (i : Instr) (m : Address) (v : Byte) (s : State) : State :=
  memWrite (ea m s) v ((advance i s).setBus (s.bus ++ pointerReads m s ++ [.read (ea m s)]))

/-- An instruction rewrites the byte that the state before it says: advancing PC first makes no difference. -/
theorem modifyAddress_advance (i : Instr) (m : Address) (f : Byte → Byte) (s : State) :
    modifyAddress m f (advance i s) =
      ⟨s.peek (ea m s), (resolve m s).cross, modified i m (f (s.peek (ea m s))) s⟩ := by
  simp [modified]

theorem exec_inc (m : Address) (s : State) :
    exec (.inc m) s = complete (.inc m) (resolve m s).cross
      ((modified (.inc m) m (s.peek (ea m s) + 1) s).setNZ (s.peek (ea m s) + 1)) := by
  simp only [exec, execInc, modifyAddress_advance]

theorem exec_dec (m : Address) (s : State) :
    exec (.dec m) s = complete (.dec m) (resolve m s).cross
      ((modified (.dec m) m (s.peek (ea m s) - 1) s).setNZ (s.peek (ea m s) - 1)) := by
  simp only [exec, execDec, modifyAddress_advance]

@[simp] theorem modified_peek (i : Instr) (m : Address) (v : Byte) (s : State) :
    (modified i m v s).peek (ea m s) = v := by
  rw [modified, memWrite_peek, if_pos rfl]

@[simp] theorem modified_bus (i : Instr) (m : Address) (v : Byte) (s : State) :
    (modified i m v s).bus = s.bus ++ pointerReads m s ++ [.read (ea m s), .write (ea m s) v] :=
  List.append_assoc _ _ _

/-- Rewriting a byte changes nothing but that byte, PC and the access list. -/
theorem OnlyWrites.modified {w : Writes} {i : Instr} {m : Address} {v : Byte} {s : State} (hw : ea m s ∈ w.stores) :
    OnlyWrites w s (modified i m v s) := advanced.setBus.memWrite hw

/-- An instruction that rewrites a byte of memory and sets N and Z from it completes with the new byte in place, nothing
else changed, and its pointer reads, the read and the write as its accesses. -/
theorem modifyNZ_completes {f : Form} {i : Instr} (hform : HasForm f i) (m : Address) (v : Byte) (s : State) :
    ∃ t, complete i (resolve m s).cross ((modified i m v s).setNZ v) = .next t ∧ t.peek (ea m s) = v ∧
      HasNZ t v ∧ OnlyWrites { flags := [.N, .Z], stores := [ea m s] } s t ∧ Ends f i (resolve m s).cross s t ∧
      t.bus = s.bus ++ pointerReads m s ++ [.read (ea m s), .write (ea m s) v] :=
  ⟨_, hform.completes, modified_peek i m v s, setNZ_hasNZ _ v,
    ((OnlyWrites.modified (List.mem_singleton_self _)).setNZ (by simp) (by simp)).setT, hform.ends rfl,
    modified_bus i m v s⟩

/-- Settles O37: INC and DEC rewrite one byte and set N and Z from it; neither looks at D. -/
theorem incDecChangeOneByte : Obligations.IncDecChangeOneByte := by
  unfold Obligations.IncDecChangeOneByte
  refine ⟨fun f hf m s hmode => ?_, fun f hf m s hmode => ?_⟩
  · rw [exec_inc]
    have hform : HasForm f (.inc m) := .ofAddress (r := rowINC) rfl (by decide) hf hmode
    obtain ⟨t, hnext, hrest⟩ := modifyNZ_completes hform m _ s
    exact ⟨t, _, hnext, toNat_add_one _, hrest⟩
  · rw [exec_dec]
    have hform : HasForm f (.dec m) := .ofAddress (r := rowDEC) rfl (by decide) hf hmode
    obtain ⟨t, hnext, hrest⟩ := modifyNZ_completes hform m _ s
    exact ⟨t, _, hnext, toNat_sub_one _, hrest⟩

/-! ### Index registers -/

open OnlyWrites in
/-- Settles O38: each writes one index register, N and Z. -/
theorem indexIncDec : Obligations.IndexIncDec := by
  unfold Obligations.IndexIncDec
  intro s
  refine ⟨?inx, ?iny, ?dex, ?dey⟩
  case inx =>
    have hform : HasForm (oneByte .impl 0xE8 2) .inx := .ofOneByte
    exact ⟨_, hform.completes, toNat_add_one s.x, setNZ_hasNZ _ _, advanced.setX.setNZ.setT, hform.ends rfl, rfl⟩
  case iny =>
    have hform : HasForm (oneByte .impl 0xC8 2) .iny := .ofOneByte
    exact ⟨_, hform.completes, toNat_add_one s.y, setNZ_hasNZ _ _, advanced.setY.setNZ.setT, hform.ends rfl, rfl⟩
  case dex =>
    have hform : HasForm (oneByte .impl 0xCA 2) .dex := .ofOneByte
    exact ⟨_, hform.completes, toNat_sub_one s.x, setNZ_hasNZ _ _, advanced.setX.setNZ.setT, hform.ends rfl, rfl⟩
  case dey =>
    have hform : HasForm (oneByte .impl 0x88 2) .dey := .ofOneByte
    exact ⟨_, hform.completes, toNat_sub_one s.y, setNZ_hasNZ _ _, advanced.setY.setNZ.setT, hform.ends rfl, rfl⟩

end Sys2Proof.Machine
end

section
/-! SUPPORT. CMP, CPX and CPY (R148 to R150): the flags of a difference that no register takes. -/

namespace Sys2Proof.Machine

open OpcodeTable

theorem exec_cmp (o : Source) (s : State) :
    exec (.cmp o) s = complete (.cmp o) (crossOf o s) ((operandRead (.cmp o) o s).setCompare s.a (valueOf o s)) := by
  simp only [exec, execCmp, loadSource_advance]

theorem exec_cpx (o : Source) (s : State) :
    exec (.cpx o) s = complete (.cpx o) (crossOf o s) ((operandRead (.cpx o) o s).setCompare s.x (valueOf o s)) := by
  simp only [exec, execCpx, loadSource_advance]

theorem exec_cpy (o : Source) (s : State) :
    exec (.cpy o) s = complete (.cpy o) (crossOf o s) ((operandRead (.cpy o) o s).setCompare s.y (valueOf o s)) := by
  simp only [exec, execCpy, loadSource_advance]

/-- The 8-bit difference of two bytes is their exact difference modulo 256. -/
theorem ofInt_toNat_sub (r m : Byte) : BitVec.ofInt 8 ((r.toNat : Int) - m.toNat) = r - m := by
  apply BitVec.eq_of_toNat_eq
  rw [BitVec.toNat_ofInt, BitVec.toNat_sub]
  omega

theorem OnlyWrites.setCompare {w : Writes} {s u : State} (h : OnlyWrites w s u) {r m : Byte}
    (hNZ : .N ∈ w.flags ∧ .Z ∈ w.flags := by decide) (hC : .C ∈ w.flags := by decide) :
    OnlyWrites w s (u.setCompare r m) := by
  refine h.setP fun f hf => ?_
  have hfZ : f ≠ .Z := fun he => hf (he ▸ hNZ.2)
  have hfN : f ≠ .N := fun he => hf (he ▸ hNZ.1)
  have hfC : f ≠ .C := fun he => hf (he ▸ hC)
  rw [flagOf_withCompare, if_neg hfZ, if_neg hfN, if_neg hfC, State.flag]

/-- A compare of a register with a byte leaves the N and Z of their exact difference modulo 256. -/
theorem setCompare_hasNZ (u : State) (r m : Byte) :
    HasNZ (u.setCompare r m) (BitVec.ofInt 8 ((r.toNat : Int) - m.toNat)) := by
  rw [ofInt_toNat_sub]
  exact ⟨by rw [setCompare_flag, if_neg (by decide), if_pos rfl, negative],
    by rw [setCompare_flag, if_pos rfl, isZero_eq]⟩

/-- An instruction that compares a register with its operand completes with the flags of the difference, nothing else
changed, and the operand's reads as its accesses. -/
theorem compare_completes {f : Form} {i : Instr} (hform : HasForm f i) (r : Byte) (o : Source) (s : State) :
    ∃ t, complete i (crossOf o s) ((operandRead i o s).setCompare r (valueOf o s)) = .next t ∧
      t.flag .C = decide ((valueOf o s).toNat ≤ r.toNat) ∧
      HasNZ t (BitVec.ofInt 8 ((r.toNat : Int) - (valueOf o s).toNat)) ∧ OnlyWrites { flags := [.N, .Z, .C] } s t ∧
      Ends f i (crossOf o s) s t ∧ t.bus = s.bus ++ operandReads o s := by
  have hC : ((operandRead i o s).setCompare r (valueOf o s)).flag .C = decide ((valueOf o s).toNat ≤ r.toNat) := by
    simp
  exact ⟨_, hform.completes, hC, setCompare_hasNZ _ _ _, OnlyWrites.operandRead.setCompare.setT, hform.ends rfl, rfl⟩

/-- Settles O36: the three compares are one, of A, X and Y; none looks at D. -/
theorem comparesSetNZC : Obligations.ComparesSetNZC := by
  unfold Obligations.ComparesSetNZC
  refine ⟨fun f hf o s hmode => ?_, fun f hf o s hmode => ?_, fun f hf o s hmode => ?_⟩
  · rw [exec_cmp]
    exact compare_completes (.ofSource (r := rowCMP) rfl (by decide) hf hmode) s.a o s
  · rw [exec_cpx]
    exact compare_completes (.ofSource (r := rowCPX) rfl (by decide) hf hmode) s.x o s
  · rw [exec_cpy]
    exact compare_completes (.ofSource (r := rowCPY) rfl (by decide) hf hmode) s.y o s

end Sys2Proof.Machine
end

section
/-! SUPPORT. AND, ORA, EOR and BIT (R170 to R173): the three that write A differ in one byte, and BIT writes flags
alone. -/

namespace Sys2Proof.Machine

open OpcodeTable

/-! ### AND, ORA and EOR -/

theorem exec_and (o : Source) (s : State) :
    exec (.and o) s = complete (.and o) (crossOf o s)
      (((operandRead (.and o) o s).setA (s.a &&& valueOf o s)).setNZ (s.a &&& valueOf o s)) := by
  simp only [exec, execAnd, loadSource_advance]

theorem exec_ora (o : Source) (s : State) :
    exec (.ora o) s = complete (.ora o) (crossOf o s)
      (((operandRead (.ora o) o s).setA (s.a ||| valueOf o s)).setNZ (s.a ||| valueOf o s)) := by
  simp only [exec, execOra, loadSource_advance]

theorem exec_eor (o : Source) (s : State) :
    exec (.eor o) s = complete (.eor o) (crossOf o s)
      (((operandRead (.eor o) o s).setA (s.a ^^^ valueOf o s)).setNZ (s.a ^^^ valueOf o s)) := by
  simp only [exec, execEor, loadSource_advance]

/-- Settles O39: each writes A, N and Z after reading its operand, and its result is one of `BitVec`'s bitwise
operations. -/
theorem logicIsBitwise : Obligations.LogicIsBitwise := by
  unfold Obligations.LogicIsBitwise
  refine ⟨fun f hf o s hmode => ?_, fun f hf o s hmode => ?_, fun f hf o s hmode => ?_⟩
  · rw [exec_and]
    have hform : HasForm f (.and o) := .ofSource (r := rowAND) rfl (by decide) hf hmode
    exact ⟨_, hform.completes, fun k => BitVec.getLsbD_and, setNZ_hasNZ _ _, OnlyWrites.operandRead.setA.setNZ.setT,
      hform.ends rfl, rfl⟩
  · rw [exec_ora]
    have hform : HasForm f (.ora o) := .ofSource (r := rowORA) rfl (by decide) hf hmode
    exact ⟨_, hform.completes, fun k => BitVec.getLsbD_or, setNZ_hasNZ _ _, OnlyWrites.operandRead.setA.setNZ.setT,
      hform.ends rfl, rfl⟩
  · rw [exec_eor]
    have hform : HasForm f (.eor o) := .ofSource (r := rowEOR) rfl (by decide) hf hmode
    exact ⟨_, hform.completes, fun k => BitVec.getLsbD_xor, setNZ_hasNZ _ _, OnlyWrites.operandRead.setA.setNZ.setT,
      hform.ends rfl, rfl⟩

/-! ### BIT -/

theorem exec_bit (m : Address) (s : State) :
    exec (.bit m) s = complete (.bit m) (resolve m s).cross
      ((operandRead (.bit m) (.mem m) s).setBitTest (s.peek (ea m s))) := by
  have hload : loadAddress m (advance (.bit m) s) =
      ⟨s.peek (ea m s), (resolve m s).cross, operandRead (.bit m) (.mem m) s⟩ := loadSource_advance _ (.mem m) s
  simp only [exec, execBit, hload]

/-- The conjunction of two bytes is zero when they have no common bit. -/
theorem isZero_and_iff (a m : Byte) :
    isZero (a &&& m) = true ↔ ∀ k, (a.getLsbD k && m.getLsbD k) = false := by
  rw [isZero, beq_iff_eq]
  constructor
  · intro h k
    rw [← BitVec.getLsbD_and, h]
    exact BitVec.getLsbD_zero
  · intro h
    apply BitVec.eq_of_getLsbD_eq
    intro k _
    rw [BitVec.getLsbD_and, h k]
    exact BitVec.getLsbD_zero.symm

theorem OnlyWrites.setBitTest {w : Writes} {s u : State} (h : OnlyWrites w s u) {m : Byte}
    (hflags : ∀ f ∈ [Flag.N, .V, .Z], f ∈ w.flags := by decide) : OnlyWrites w s (u.setBitTest m) := by
  refine h.setP fun f hf => ?_
  have hne : ∀ g ∈ [Flag.N, .V, .Z], f ≠ g := fun g hg he => hf (he ▸ hflags g hg)
  rw [flagOf_withBitTest, if_neg (hne .V (by decide)), if_neg (hne .N (by decide)), if_neg (hne .Z (by decide)),
    State.flag]

/-- Settles O40: BIT writes Z from `A & M`, and N and V from M. -/
theorem bitTestsMemory : Obligations.BitTestsMemory := by
  unfold Obligations.BitTestsMemory
  intro f hf m s hmode
  rw [exec_bit]
  have hform : HasForm f (.bit m) := .ofAddress (r := rowBIT) rfl (by decide) hf hmode
  refine ⟨_, hform.completes, ?Z, ?N, ?V, OnlyWrites.operandRead.setBitTest.setT, hform.ends rfl, ?bus⟩
  case Z =>
    rw [setT_flag, setBitTest_flag, if_neg (by decide), if_neg (by decide), if_pos rfl]
    exact isZero_and_iff s.a _
  case N => rw [setT_flag, setBitTest_flag, if_neg (by decide), if_pos rfl]
  case V => rw [setT_flag, setBitTest_flag, if_pos rfl]
  case bus => exact (List.append_assoc _ _ _).symm

end Sys2Proof.Machine
end

section
/-! SUPPORT. ASL, LSR, ROL and ROR (R174 to R177): the four are one meaning, given what a byte is shifted to; on A it is
one chain of updates, and on memory one read and one write. -/

namespace Sys2Proof.Machine

open OpcodeTable

/-! ### Results as numbers -/

theorem shiftLeft_value_toNat (v : Byte) : (shiftLeft v).value.toNat = v.toNat * 2 % 256 := BitVec.toNat_ofNat _ _

theorem shiftRight_value_toNat (v : Byte) : (shiftRight v).value.toNat = v.toNat / 2 := by
  have := v.isLt
  rw [shiftRight, BitVec.toNat_ofNat]
  omega

/-- The old carry is the low bit: a doubled byte leaves it free. -/
theorem rotateLeft_value_toNat (cin : Bool) (v : Byte) :
    (rotateLeft cin v).value.toNat = v.toNat * 2 % 256 + cin.toNat := by
  have hcin : cin.toNat < 2 := cin.toNat_lt
  have hlow : cin.toNat % 256 = cin.toNat := by omega
  have heven : v.toNat * 2 % 256 = 2 * (v.toNat % 128) := by omega
  calc (rotateLeft cin v).value.toNat
      = v.toNat * 2 % 256 ||| cin.toNat % 256 := BitVec.toNat_or _ _
    _ = 2 * (v.toNat % 128) ||| cin.toNat := by rw [hlow, heven]
    _ = 2 * (v.toNat % 128) + cin.toNat := (Nat.two_pow_add_eq_or_of_lt (i := 1) hcin _).symm
    _ = v.toNat * 2 % 256 + cin.toNat := by rw [heven]

/-- The old carry is the high bit: a halved byte leaves it free. -/
theorem rotateRight_value_toNat (cin : Bool) (v : Byte) :
    (rotateRight cin v).value.toNat = v.toNat / 2 + cin.toNat * 128 := by
  have := v.isLt
  have := cin.toNat_lt
  have hhalf : v.toNat / 2 < 128 := by omega
  have hlow : v.toNat / 2 % 256 = v.toNat / 2 := by omega
  have hhigh : cin.toNat * 128 % 256 = 128 * cin.toNat := by omega
  calc (rotateRight cin v).value.toNat
      = v.toNat / 2 % 256 ||| cin.toNat * 128 % 256 := BitVec.toNat_or _ _
    _ = 128 * cin.toNat ||| v.toNat / 2 := by rw [hlow, hhigh, Nat.or_comm]
    _ = 128 * cin.toNat + v.toNat / 2 := (Nat.two_pow_add_eq_or_of_lt (i := 7) hhalf _).symm
    _ = v.toNat / 2 + cin.toNat * 128 := by omega

/-! ### Flags -/

theorem setShift_hasNZ (u : State) (r : ShiftResult) : HasNZ (u.setShift r) r.value :=
  ⟨by rw [setShift_flag, if_neg (by decide), if_pos rfl, negative], by rw [setShift_flag, if_pos rfl, isZero_eq]⟩

theorem setShift_carry (u : State) (r : ShiftResult) : (u.setShift r).flag .C = r.c := by
  rw [setShift_flag, if_neg (by decide), if_neg (by decide), if_pos rfl]

theorem OnlyWrites.setShift {w : Writes} {s u : State} (h : OnlyWrites w s u) {r : ShiftResult}
    (hflags : ∀ f ∈ [Flag.N, .Z, .C], f ∈ w.flags := by decide) : OnlyWrites w s (u.setShift r) := by
  refine h.setP fun f hf => ?_
  have hne : ∀ g ∈ [Flag.N, .Z, .C], f ≠ g := fun g hg he => hf (he ▸ hflags g hg)
  rw [flagOf_withShift, if_neg (hne .Z (by decide)), if_neg (hne .N (by decide)), if_neg (hne .C (by decide)),
    State.flag]

/-! ### One meaning for the four -/

/-- The meaning of an instruction that shifts its operand: `shift` gives the byte written back and the bit for C. -/
def shiftTarget (i : Instr) (t : Target) (shift : Byte → ShiftResult) (s : State) :
    Host.Outcome State Fault Refusal :=
  let r := modifyTarget t (fun v => (shift v).value) (advance i s)
  complete i r.cross (r.state.setShift (shift r.old))

theorem exec_asl (t : Target) (s : State) : exec (.asl t) s = shiftTarget (.asl t) t shiftLeft s := rfl

theorem exec_lsr (t : Target) (s : State) : exec (.lsr t) s = shiftTarget (.lsr t) t shiftRight s := rfl

theorem exec_rol (t : Target) (s : State) :
    exec (.rol t) s = shiftTarget (.rol t) t (rotateLeft (s.flag .C)) s := rfl

theorem exec_ror (t : Target) (s : State) :
    exec (.ror t) s = shiftTarget (.ror t) t (rotateRight (s.flag .C)) s := rfl

/-- A shift of A completes with the result in A, the bit shifted out in C, and no access. -/
theorem shiftTarget_acc_completes {f : Form} {i : Instr} (hform : HasForm f i) (shift : Byte → ShiftResult)
    (s : State) :
    ∃ t, shiftTarget i .acc shift s = .next t ∧ t.a = (shift s.a).value ∧ t.flag .C = (shift s.a).c ∧ HasNZ t t.a ∧
      OnlyWrites { a := true, flags := [.N, .Z, .C] } s t ∧ Ends f i false s t ∧ t.bus = s.bus :=
  ⟨_, hform.completes, rfl, setShift_carry _ (shift s.a), setShift_hasNZ _ (shift s.a),
    OnlyWrites.advanced.setA.setShift.setT, hform.ends rfl, rfl⟩

/-- A shift of memory completes with the result at the effective address, the bit shifted out in C, and its pointer
reads, the read and the write as its accesses (R53). -/
theorem shiftTarget_mem_completes {f : Form} {i : Instr} (hform : HasForm f i) (m : Address)
    (shift : Byte → ShiftResult) (s : State) :
    ∃ t, shiftTarget i (.mem m) shift s = .next t ∧ t.flag .C = (shift (s.peek (ea m s))).c ∧
      t.peek (ea m s) = (shift (s.peek (ea m s))).value ∧ HasNZ t (shift (s.peek (ea m s))).value ∧
      OnlyWrites { flags := [.N, .Z, .C], stores := [ea m s] } s t ∧ Ends f i (resolve m s).cross s t ∧
      t.bus = s.bus ++ pointerReads m s ++
        [.read (ea m s), .write (ea m s) (shift (s.peek (ea m s))).value] := by
  simp only [shiftTarget, modifyTarget_mem, modifyAddress_advance]
  have hframe : OnlyWrites { flags := [.N, .Z, .C], stores := [ea m s] } s
      (modified i m (shift (s.peek (ea m s))).value s) := OnlyWrites.modified (List.mem_singleton_self _)
  exact ⟨_, hform.completes, setShift_carry _ _, modified_peek i m _ s, setShift_hasNZ _ _,
    (hframe.setShift (by simp)).setT, hform.ends rfl, modified_bus i m _ s⟩

/-! ### The instructions -/

/-- Settles O41: ASL and LSR are shifts of their operand, to its double and to its half. -/
theorem shiftsMoveOneBit : Obligations.ShiftsMoveOneBit := by
  unfold Obligations.ShiftsMoveOneBit
  refine ⟨fun s => ?aslA, fun s => ?lsrA, fun f hf m s hmode => ?aslMem, fun f hf m s hmode => ?lsrMem⟩
  case aslA =>
    rw [exec_asl]
    have hform : HasForm (oneByte .acc 0x0A 2) (.asl .acc) := .ofOneByte
    obtain ⟨t, hnext, ha, hrest⟩ := shiftTarget_acc_completes hform shiftLeft s
    exact ⟨t, hnext, by rw [ha, shiftLeft_value_toNat], hrest⟩
  case lsrA =>
    rw [exec_lsr]
    have hform : HasForm (oneByte .acc 0x4A 2) (.lsr .acc) := .ofOneByte
    obtain ⟨t, hnext, ha, hrest⟩ := shiftTarget_acc_completes hform shiftRight s
    exact ⟨t, hnext, by rw [ha, shiftRight_value_toNat], hrest⟩
  case aslMem =>
    rw [exec_asl]
    have hform : HasForm f (.asl (.mem m)) := .ofAddress (r := rowASL) rfl (by decide) hf hmode
    obtain ⟨t, hnext, hrest⟩ := shiftTarget_mem_completes hform m shiftLeft s
    exact ⟨t, _, hnext, shiftLeft_value_toNat _, hrest⟩
  case lsrMem =>
    rw [exec_lsr]
    have hform : HasForm f (.lsr (.mem m)) := .ofAddress (r := rowLSR) rfl (by decide) hf hmode
    obtain ⟨t, hnext, hrest⟩ := shiftTarget_mem_completes hform m shiftRight s
    exact ⟨t, _, hnext, shiftRight_value_toNat _, hrest⟩

/-- Settles O42: ROL and ROR are shifts of their operand that bring the old C in. -/
theorem rotatesGoThroughCarry : Obligations.RotatesGoThroughCarry := by
  unfold Obligations.RotatesGoThroughCarry
  refine ⟨fun s => ?rolA, fun s => ?rorA, fun f hf m s hmode => ?rolMem, fun f hf m s hmode => ?rorMem⟩
  case rolA =>
    rw [exec_rol]
    have hform : HasForm (oneByte .acc 0x2A 2) (.rol .acc) := .ofOneByte
    obtain ⟨t, hnext, ha, hrest⟩ := shiftTarget_acc_completes hform (rotateLeft (s.flag .C)) s
    exact ⟨t, hnext, by rw [ha, rotateLeft_value_toNat], hrest⟩
  case rorA =>
    rw [exec_ror]
    have hform : HasForm (oneByte .acc 0x6A 2) (.ror .acc) := .ofOneByte
    obtain ⟨t, hnext, ha, hrest⟩ := shiftTarget_acc_completes hform (rotateRight (s.flag .C)) s
    exact ⟨t, hnext, by rw [ha, rotateRight_value_toNat], hrest⟩
  case rolMem =>
    rw [exec_rol]
    have hform : HasForm f (.rol (.mem m)) := .ofAddress (r := rowROL) rfl (by decide) hf hmode
    obtain ⟨t, hnext, hrest⟩ := shiftTarget_mem_completes hform m (rotateLeft (s.flag .C)) s
    exact ⟨t, _, hnext, rotateLeft_value_toNat _ _, hrest⟩
  case rorMem =>
    rw [exec_ror]
    have hform : HasForm f (.ror (.mem m)) := .ofAddress (r := rowROR) rfl (by decide) hf hmode
    obtain ⟨t, hnext, hrest⟩ := shiftTarget_mem_completes hform m (rotateRight (s.flag .C)) s
    exact ⟨t, _, hnext, rotateRight_value_toNat _ _, hrest⟩

end Sys2Proof.Machine
end

section
/-! SUPPORT. Jumps, subroutines, branches, BRK and RTI (R190 to R205): each meaning is one chain of stack operations and
updates, and the eight branches are one meaning, given whether it is taken. -/

namespace Sys2Proof.Machine

/-! ### Jumps -/

theorem exec_jmp (a : Word) (s : State) : exec (.jmp a) s = .next ((s.setPc a).setT 3) := rfl

theorem exec_jmpInd (ptr : Word) (s : State) :
    exec (.jmpInd ptr) s = .next (((s.setBus
      (s.bus ++ [.read ptr] ++ [.read (indirectHigh s.cfg.jmpIndWrap ptr)])).setPc
      (joinBytes (s.peek (indirectHigh s.cfg.jmpIndWrap ptr)) (s.peek ptr))).setT 5) := rfl

/-- The word of two bytes as a number, low byte first (R43). -/
theorem joinBytes_toNat_lo_hi (hi lo : Byte) : (joinBytes hi lo).toNat = lo.toNat + 256 * hi.toNat := by
  rw [joinBytes_toNat]
  omega

/-- With the page wrap, the pointer's second address stays in the pointer's page (R191). -/
theorem indirectHigh_nmos_toNat (ptr : Word) :
    (indirectHigh .nmos ptr).toNat = ptr.toNat / 256 * 256 + (ptr.toNat % 256 + 1) % 256 := by
  rw [indirectHigh, joinBytes_toNat, hiByte_toNat, BitVec.toNat_add, loByte_toNat]
  rfl

/-- Without it, it is the next address (R191). -/
theorem indirectHigh_linear_toNat (ptr : Word) : (indirectHigh .linear ptr).toNat = (ptr.toNat + 1) % 65536 :=
  BitVec.toNat_add ptr 1

open OnlyWrites in
/-- Settles O43: both jumps change PC alone, JMP indirect after two reads through its pointer. -/
theorem jumpsSetPc : Obligations.JumpsSetPc := by
  unfold Obligations.JumpsSetPc
  refine ⟨fun a s => ⟨_, exec_jmp a s, rfl, rfl, rfl, refl.setPc.setT, rfl⟩, fun ptr s => ?_⟩
  refine ⟨_, indirectHigh s.cfg.jmpIndWrap ptr, exec_jmpInd ptr s, rfl, ?_, joinBytes_toNat_lo_hi _ _, rfl,
    refl.setBus.setPc.setT, List.append_assoc _ _ _⟩
  cases s.cfg.jmpIndWrap with
  | nmos => exact indirectHigh_nmos_toNat ptr
  | linear => exact indirectHigh_linear_toNat ptr

/-! ### Subroutines -/

theorem exec_jsr (a : Word) (s : State) : exec (.jsr a) s = .next (((pushWord (s.pc + 2) s).setPc a).setT 6) := rfl

theorem exec_rts (s : State) : exec .rts s = .next (((pullWord s).2.setPc ((pullWord s).1 + 1)).setT 6) := rfl

@[simp] theorem pushWord_sp (w : Word) (s : State) : (pushWord w s).sp = s.sp - 2 := sub_one_sub_one s.sp

@[simp] theorem pushWord_bus (w : Word) (s : State) : (pushWord w s).bus =
    s.bus ++ [.write (stackAddr s.sp) (hiByte w), .write (stackAddr (s.sp - 1)) (loByte w)] :=
  List.append_assoc _ _ _

/-- The two bytes of a pushed address on the stack (R48). -/
theorem pushWord_peek (w : Word) (s : State) :
    (pushWord w s).peek (stackAddr s.sp) = hiByte w ∧ (pushWord w s).peek (stackAddr (s.sp - 1)) = loByte w := by
  simp [pushWord_eq, stackAddr_inj]

/-- RTS goes one past the address it pulls (R193). -/
theorem pullWord_add_one_toNat (s : State) : ((pullWord s).1 + 1).toNat =
    ((s.peek (stackAddr (s.sp + 1))).toNat + 256 * (s.peek (stackAddr (s.sp + 2))).toNat + 1) % 65536 := by
  have htop : s.sp + 1 + 1 = s.sp + 2 := add_one_add_one s.sp
  rw [pullWord_value, htop, BitVec.toNat_add, joinBytes_toNat_lo_hi]
  rfl

namespace OnlyWrites

variable {w : Writes} {s u : State}

theorem pushWord (h : OnlyWrites w s u) {v : Word} (hhi : stackAddr u.sp ∈ w.stores)
    (hlo : stackAddr (u.sp - 1) ∈ w.stores) (hw : w.sp = true := by rfl) : OnlyWrites w s (pushWord v u) :=
  (h.push hhi hw).push hlo hw

theorem pullWord (h : OnlyWrites w s u) (hw : w.sp = true := by rfl) : OnlyWrites w s (pullWord u).2 :=
  (h.pull hw).pull hw

end OnlyWrites

/-- Settles O44: JSR is a push of an address and a jump, RTS a pull of one and a jump past it. -/
theorem subroutineCallAndReturn : Obligations.SubroutineCallAndReturn := by
  unfold Obligations.SubroutineCallAndReturn
  refine ⟨fun a s => ?jsr, fun s => ?rts⟩
  case jsr =>
    obtain ⟨hhi, hlo⟩ := pushWord_peek (s.pc + 2) s
    have hframe : OnlyWrites { sp := true, stores := [stackAddr s.sp, stackAddr (s.sp - 1)] } s
        (pushWord (s.pc + 2) s) := OnlyWrites.refl.pushWord (by simp) (by simp)
    exact ⟨_, exec_jsr a s, rfl, rfl, rfl, pushWord_sp _ s, hhi, hlo, hframe.setPc.setT, pushWord_bus _ s⟩
  case rts =>
    have hsp : (pullWord s).2.sp = s.sp + 2 := by simp
    have hbus : (pullWord s).2.bus = s.bus ++ [.read (stackAddr (s.sp + 1)), .read (stackAddr (s.sp + 2))] := by simp
    exact ⟨_, exec_rts s, rfl, pullWord_add_one_toNat s, rfl, hsp, OnlyWrites.refl.pullWord.setPc.setT, hbus⟩

/-! ### Branches -/

/-- A target is the signed offset past the next instruction, with its wrap (R70, R73). -/
theorem branchTarget_toNat (off : Byte) (next : Word) :
    ((branchTarget off next).toNat : Int) = (next.toNat + off.toInt) % 65536 := by
  have hoff : (off.signExtend 16).toInt = off.toInt := BitVec.toInt_signExtend_of_le (by decide)
  rw [← hoff, BitVec.toInt_eq_toNat_cond, branchTarget, BitVec.toNat_add]
  split <;> omega

theorem branch_taken {i : Instr} {op : Byte} (hop : i.opcode = some op) (off : Byte) (s : State) :
    branch i off true s = .next (((advance i s).setPc (branchTarget off (advance i s).pc)).setT
      (branchCycles true (crosses (advance i s).pc (branchTarget off (advance i s).pc)))) := by
  simp [branch, hop]

theorem branch_not_taken {i : Instr} {op : Byte} (hop : i.opcode = some op) (off : Byte) (s : State) :
    branch i off false s = .next ((advance i s).setT 2) := by
  simp [branch, hop, branchCycles]

/-- A taken branch costs one more across a page (R82). -/
theorem branchCycles_taken_toNat (next target : Word) : (branchCycles true (crosses next target)).toNat =
    if target.toNat / 256 = next.toNat / 256 then 3 else 4 := by
  rw [crosses_eq]
  by_cases hpage : target.toNat / 256 = next.toNat / 256 <;> simp [branchCycles, hpage]

/-- The one meaning of the eight branches: each goes to its target or on to the next instruction (R194). -/
theorem branch_completes {op : Byte} (i : Instr) (off : Byte) (taken : Bool) (s : State)
    (hop : i.opcode = some op := by rfl) (hlen : i.length = 2 := by rfl) :
    ∃ t, branch i off taken s = .next t ∧ Branched op i off taken s t := by
  have hnext : (advance i s).pc.toNat = (s.pc.toNat + 2) % 65536 := by
    rw [advance_eq, hlen]
    exact BitVec.toNat_add s.pc 2
  cases taken with
  | false =>
    refine ⟨_, branch_not_taken hop off s, hop, ?_, rfl, OnlyWrites.advanced.setT, rfl⟩
    rw [setT_pc, hnext]
    simp
  | true =>
    have htarget := branchTarget_toNat off (advance i s).pc
    have hcount := branchCycles_taken_toNat (advance i s).pc (branchTarget off (advance i s).pc)
    rw [hnext] at htarget hcount
    refine ⟨_, branch_taken hop off s, hop, htarget.trans ?_, hcount, OnlyWrites.advanced.setPc.setT, rfl⟩
    simp

/-- Settles O46: the eight branches are one meaning and differ in the flag they test. -/
theorem branchesTestOneFlag : Obligations.BranchesTestOneFlag := by
  unfold Obligations.BranchesTestOneFlag
  intro off s
  simp only [Bool.decide_eq_true, Bool.decide_eq_false]
  exact ⟨branch_completes (.bcc off) off (!s.flag .C) s, branch_completes (.bcs off) off (s.flag .C) s,
    branch_completes (.beq off) off (s.flag .Z) s, branch_completes (.bne off) off (!s.flag .Z) s,
    branch_completes (.bmi off) off (s.flag .N) s, branch_completes (.bpl off) off (!s.flag .N) s,
    branch_completes (.bvc off) off (!s.flag .V) s, branch_completes (.bvs off) off (s.flag .V) s⟩

/-! ### BRK and RTI -/

theorem exec_brk (s : State) :
    exec .brk s = .next ((enter irqVector (s.pc + 2) (pushedByInstruction s.p) s).setT 7) := rfl

theorem exec_rti (s : State) : exec .rti s = .next ((returnFromInterrupt s).setT 6) := rfl

/-- Past the stack page no address is one that S points at (R24). -/
theorem ne_stackAddr {a : Word} (ha : 512 ≤ a.toNat) (sp : Byte) : a ≠ stackAddr sp := by
  rintro rfl
  have := sp.isLt
  rw [stackAddr_toNat] at ha
  omega

/-- The stack frame of an entry: PC high, PC low, then the copy of P, and every byte past the stack page as it was
(R244, R204). -/
theorem entryStack_peek (ret : Word) (pushed : Byte) (s : State) :
    (entryStack ret pushed s).peek (stackAddr s.sp) = hiByte ret ∧
    (entryStack ret pushed s).peek (stackAddr (s.sp - 1)) = loByte ret ∧
    (entryStack ret pushed s).peek (stackAddr (s.sp - 2)) = pushed ∧
    ∀ a : Word, 512 ≤ a.toNat → (entryStack ret pushed s).peek a = s.peek a := by
  refine ⟨?_, ?_, ?_, fun a ha => ?_⟩
  · simp [entryStack, stackAddr_inj]
  · simp [entryStack, stackAddr_inj]
  · simp [entryStack]
  · simp [entryStack, ne_stackAddr ha]

namespace OnlyWrites

variable {w : Writes} {s u : State}

theorem setFlag (h : OnlyWrites w s u) {f : Flag} {b : Bool} (hf : f ∈ w.flags := by simp) :
    OnlyWrites w s (u.setFlag f b) := by
  refine h.setP fun g hg => ?_
  have hne : g ≠ f := fun he => hg (he ▸ hf)
  rw [flagOf_withFlag, if_neg hne, State.flag]

theorem entryStack (h : OnlyWrites w s u) {ret : Word} {pushed : Byte} (hhi : stackAddr u.sp ∈ w.stores)
    (hlo : stackAddr (u.sp - 1) ∈ w.stores) (hp : stackAddr (u.sp - 2) ∈ w.stores) :
    OnlyWrites w s (entryStack ret pushed u) :=
  ((h.memWrite hhi).memWrite hlo).memWrite (sub_one_sub_one u.sp ▸ hp)

end OnlyWrites

open OnlyWrites in
/-- An entry through a vector past the stack page leaves what the entry rules say (R244, R204). -/
theorem enter_entered {vector : Word} (hlo : 512 ≤ vector.toNat) (hhi : 512 ≤ (vector + 1).toNat) (ret : Word)
    (pushed : Byte) (s : State) : Entered vector ret pushed s (enter vector ret pushed s) := by
  obtain ⟨hpcHi, hpcLo, hp, hkeep⟩ := entryStack_peek ret pushed s
  rw [enter_eq, hkeep _ hlo, hkeep _ hhi]
  exact ⟨hpcHi, hpcLo, hp, by simp, by simp, rfl,
    (refl.entryStack (by simp) (by simp) (by simp)).setSp.setFlag.setPc.setBus, by simp⟩

/-- T is no part of what an entry leaves. -/
theorem Entered.setT {vector ret : Word} {pushed : Byte} {s t : State} (h : Entered vector ret pushed s t) {v : Byte} :
    Entered vector ret pushed s (t.setT v) := h

/-- Settles O47: BRK is an entry that does not look at I. -/
theorem brkEntersTheHandler : Obligations.BrkEntersTheHandler := by
  unfold Obligations.BrkEntersTheHandler
  intro s
  have hentered := enter_entered (vector := irqVector) (by decide) (by decide) (s.pc + 2) (pushedByInstruction s.p) s
  exact ⟨_, exec_brk s, rfl, rfl, hentered.setT⟩

open OnlyWrites in
/-- Settles O48: RTI is a pull of P and then of PC. -/
theorem rtiRestoresPAndPc : Obligations.RtiRestoresPAndPc := by
  unfold Obligations.RtiRestoresPAndPc
  intro s
  have hall : ∀ f : Flag, f ∈ [Flag.C, .Z, .I, .D, .B, .U, .V, .N] := fun f => by cases f <;> decide
  have hsp2 : s.sp + 1 + 1 = s.sp + 2 := add_one_add_one s.sp
  have hsp3 : s.sp + 2 + 1 = s.sp + 3 := add_two_add_one s.sp
  rw [exec_rti, returnFromInterrupt_eq, hsp2, hsp3]
  exact ⟨_, rfl, rfl, rfl, rfl, rfl, joinBytes_toNat_lo_hi _ _, (refl.loadP hall).setSp.setPc.setBus.setT, rfl⟩

end Sys2Proof.Machine
end

section
/-! SUPPORT. Flag instructions and NOP (R220 to R227): the seven are one update of P, of the flag and value each names,
and NOP is the end of its form alone. -/

namespace Sys2Proof.Machine

/-- A two-cycle instruction of one byte that gives a flag a value completes with that value in it, nothing else changed,
and no access. -/
theorem setFlag_completes {op : Byte} (i : Instr) (g : Flag) (b : Bool) (s : State)
    (hop : i.opcode = some op := by rfl) (hcount : ∀ cross, (cycles op cross).toNat = 2 := by decide) :
    ∃ t, complete i false ((advance i s).setFlag g b) = .next t ∧ t.flag g = b ∧ OnlyWrites { flags := [g] } s t ∧
      Ends (oneByte .impl op 2) i false s t ∧ t.bus = s.bus := by
  have hform : HasForm (oneByte .impl op 2) i := .ofOneByte hop hcount
  have hflag : ((advance i s).setFlag g b).flag g = b := by rw [setFlag_flag, if_pos rfl]
  exact ⟨_, hform.completes, hflag, OnlyWrites.advanced.setFlag.setT, hform.ends rfl, rfl⟩

/-- Settles O50: each of the seven gives one flag its value. -/
theorem flagInstructionsWriteOneFlag : Obligations.FlagInstructionsWriteOneFlag := by
  unfold Obligations.FlagInstructionsWriteOneFlag
  intro s
  exact ⟨setFlag_completes .clc .C false s, setFlag_completes .sec .C true s, setFlag_completes .cli .I false s,
    setFlag_completes .sei .I true s, setFlag_completes .cld .D false s, setFlag_completes .sed .D true s,
    setFlag_completes .clv .V false s⟩

/-- Settles O51: NOP is its form's end after PC advances, with no update between. -/
theorem nopOnlyAdvances : Obligations.NopOnlyAdvances := by
  unfold Obligations.NopOnlyAdvances
  intro s
  have hform : HasForm (oneByte .impl 0xEA 2) .nop := .ofOneByte
  exact ⟨_, hform.completes, rfl, rfl, OnlyWrites.advanced.setT, hform.ends rfl, rfl⟩

end Sys2Proof.Machine
end

section
/-! SUPPORT. The invalid opcodes (46_invalid.md): which they are, the halt that each of them is, and the jammed state
that only Reset leaves. -/

namespace Sys2Proof.Machine

/-! ### The listed opcodes -/

/-- R84 lists no opcode twice. -/
theorem invalidOpcodes_nodup : invalidOpcodes.Nodup := by decide

/-- Settles O3: the opcode map and the encoder agree on the listed opcodes, and the list itself is data. -/
theorem jamOpcodesAreTheListed105 : Obligations.JamOpcodesAreTheListed105 := by
  unfold Obligations.JamOpcodesAreTheListed105
  exact ⟨isJam_decodeOp, invalidOpcodes_nodup, rfl⟩

/-! ### The halt -/

/-- The cell of a listed opcode is the jam of that opcode (R84). -/
theorem decodeOp_eq_jam {op : Byte} (h : op ∈ invalidOpcodes) (b1 b2 : Byte) : decodeOp op b1 b2 = .jam op := by
  obtain ⟨op', hjam⟩ := eq_jam_of_isJam (decodeOp_of_invalid h b1 b2)
  have hop := decodeOp_opcode op b1 b2
  rw [hjam] at hop
  obtain ⟨-, rfl⟩ : op' ∈ invalidOpcodes ∧ op' = op := by simpa [Instr.opcode] using hop
  exact hjam

/-- An invalid opcode has no operand bytes (R231). -/
theorem operandCount_of_invalid {op : Byte} (h : op ∈ invalidOpcodes) : operandCount op = 0 := by
  rw [operandCount, decodeOp_eq_jam h]
  rfl

theorem exec_jam {op : Byte} (h : op ∈ invalidOpcodes) (s : State) : exec (.jam op) s = .next (halt s) := by
  have hop : (Instr.jam op).opcode = some op := by simp [Instr.opcode, h]
  simp only [exec, execJam, hop]

/-- PC after a halt, for each value of `JAM_PC` (R231). -/
theorem halt_pc_toNat (s : State) :
    (halt s).pc.toNat = if s.cfg.jamPc = .atOpcode then s.pc.toNat else (s.pc.toNat + 1) % 65536 := by
  rw [halt_eq, setPc_pc, apply_ite BitVec.toNat, BitVec.toNat_add]
  rfl

/-- A Step of an invalid opcode reads that byte alone and runs its jam (R53, R231). -/
theorem step_of_invalid {s : State} (hs : s.t ≠ 0xFF) (hop : s.peek s.pc ∈ invalidOpcodes) :
    step s = exec (.jam (s.peek s.pc)) (s.setBus [.read s.pc]) := by
  obtain ⟨b1, b2, hi⟩ := fetch_startTransition_instr s
  have hcount : operandCount ((startTransition s).peek (startTransition s).pc) = 0 := operandCount_of_invalid hop
  rw [step_of_not_jammed hs, hi, decodeOp_eq_jam hop, fetch_state, hcount]
  rfl

/-- Settles O52: a jam is a halt, and a halt writes T and PC alone. -/
theorem invalidOpcodeHalts : Obligations.InvalidOpcodeHalts := by
  unfold Obligations.InvalidOpcodeHalts
  refine ⟨fun op hop s => ⟨halt s, exec_jam hop s, ?_⟩, fun s hs hop => step_of_invalid hs hop⟩
  rw [halt_pc_toNat, halt_eq]
  refine ⟨rfl, ?_, rfl, rfl, OnlyWrites.refl.setT.setPc, rfl⟩
  cases s.cfg.jamPc <;> rfl

/-! ### The jammed state -/

theorem irq_of_jammed {s : State} (hs : s.t = 0xFF) : irq s = startTransition s := by
  simp [irq, (jammed_iff s).mpr hs]

theorem nmi_of_jammed {s : State} (hs : s.t = 0xFF) : nmi s = startTransition s := by
  simp [nmi, (jammed_iff s).mpr hs]

/-- Settles O8: each transition but Reset stops at its jam check, and Reset draws a count. -/
theorem jamIsTerminal : Obligations.JamIsTerminal := by
  unfold Obligations.JamIsTerminal
  refine ⟨fun s hs k hk => ?_, fun s t ht => ?_⟩
  · cases k with
    | step => exact step_of_jammed hs
    | irq => exact congrArg Host.Outcome.next (irq_of_jammed hs)
    | nmi => exact congrArg Host.Outcome.next (nmi_of_jammed hs)
    | reset => exact absurd rfl hk
  · obtain rfl := Host.Outcome.next.inj ht
    exact resetBlock_t s

end Sys2Proof.Machine
end

section
/-! SUPPORT. Which terms run (R243): an instruction with a row in the opcode table completes, branches or jams, and any
other term is refused. The opcode map gives instructions with rows alone, so every transition answers a state and so does
every run. -/

namespace Sys2Proof.Machine

/-! ### Terms with a row in the opcode table -/

open Laws.Encodes in
/-- The opcode table has a row for an instruction exactly when it is well-formed. -/
theorem opcode_isSome (i : Instr) : i.opcode.isSome = i.wf := by
  cases i with
  | lda o => exact lda o
  | ldx o => exact ldx o
  | ldy o => exact ldy o
  | sta m => exact sta m
  | stx m => exact stx m
  | sty m => exact sty m
  | adc o => exact adc o
  | sbc o => exact sbc o
  | cmp o => exact cmp o
  | cpx o => exact cpx o
  | cpy o => exact cpy o
  | inc m => exact inc m
  | dec m => exact dec m
  | and o => exact Laws.Encodes.and o
  | ora o => exact ora o
  | eor o => exact eor o
  | bit m => exact bit m
  | asl t => exact asl t
  | lsr t => exact lsr t
  | rol t => exact rol t
  | ror t => exact ror t
  | jam op => exact jam op
  | _ => rfl

theorem exists_opcode_of_wf {i : Instr} (h : i.wf = true) : ∃ op, i.opcode = some op :=
  Option.isSome_iff_exists.mp ((opcode_isSome i).trans h)

theorem opcode_of_not_wf {i : Instr} (h : i.wf = false) : i.opcode = none :=
  Option.not_isSome_iff_eq_none.mp (by simp [opcode_isSome, h])

/-- A term with a row has a next state, whichever way its meaning ends. -/
theorem Meaning.next_of_opcode {i : Instr} {op : Byte} {s : State} {out : Host.Outcome State Fault Refusal}
    (h : Meaning i s out) (hop : i.opcode = some op) : ∃ t, out = .next t := by
  cases h with
  | complete _ => exact ⟨_, complete_of_opcode hop _ _⟩
  | branch off taken =>
    cases taken with
    | true => exact ⟨_, branch_taken hop off s⟩
    | false => exact ⟨_, branch_not_taken hop off s⟩
  | jam op' hi =>
    subst hi
    exact ⟨halt s, by simp only [execJam, hop]⟩

theorem branch_of_none {i : Instr} (hop : i.opcode = none) (off : Byte) (taken : Bool) (s : State) :
    branch i off taken s = .refused .noEncoding := by
  simp only [branch, hop]

/-- A term with no row is refused, whichever way its meaning ends. -/
theorem Meaning.refused_of_none {i : Instr} {s : State} {out : Host.Outcome State Fault Refusal}
    (h : Meaning i s out) (hop : i.opcode = none) : out = .refused .noEncoding := by
  cases h with
  | complete _ => exact complete_of_none hop _ _
  | branch off taken => exact branch_of_none hop off taken s
  | jam op' hi =>
    subst hi
    simp only [execJam, hop]

theorem exec_answers {i : Instr} {op : Byte} (hop : i.opcode = some op) (s : State) : ∃ t, exec i s = .next t :=
  (exec_meaning i s).next_of_opcode hop

/-! ### Transitions and runs -/

/-- The opcode map gives no term without a row, so a Step refuses nothing (R84). -/
theorem step_answers (s : State) : ∃ t, step s = .next t := by
  by_cases hs : s.t = 0xFF
  · exact ⟨_, step_of_jammed hs⟩
  · obtain ⟨b1, b2, hi⟩ := fetch_startTransition_instr s
    rw [step_of_not_jammed hs, hi]
    exact exec_answers (decodeOp_opcode _ b1 b2) _

theorem transition_answers (k : Transition) (s : State) : ∃ t, transition k s = .next t := by
  cases k with
  | step => exact step_answers s
  | irq => exact ⟨irq s, rfl⟩
  | nmi => exact ⟨nmi s, rfl⟩
  | reset => exact ⟨resetBlock s, rfl⟩

/-- A run goes on with the rest of its transitions after each one that answers. -/
theorem runTransitions_cons {k : Transition} {s t : State} (h : transition k s = .next t) (ks : List Transition) :
    runTransitions (k :: ks) s = runTransitions ks t := by
  simp only [runTransitions, h]

/-- Settles O7: by induction on the run, as each transition answers whatever state it is in. -/
theorem everyRunAnswers : Obligations.EveryRunAnswers := by
  unfold Obligations.EveryRunAnswers
  intro ks
  induction ks with
  | nil => exact fun s => ⟨s, rfl⟩
  | cons k ks ih =>
    intro s
    obtain ⟨t, ht⟩ := transition_answers k s
    rw [runTransitions_cons ht]
    exact ih t

/-! ### The lists of forms -/

/-- `Instr.wf` looks a mode up in a list of its own; where a rule's forms list the same modes, it accepts exactly
those. -/
theorem legal_iff_listed (modes : List Mode) {listed : List Mode} (mode : Mode) (h : listed = modes := by rfl) :
    modes.contains mode = true ↔ mode ∈ listed := by
  rw [h]
  exact List.contains_iff_mem

/-- Settles O5: a term runs when the opcode table has a row for it, and the rules' forms list the modes of `Instr.wf`. -/
theorem onlyWellFormedInstructionsRun : Obligations.OnlyWellFormedInstructionsRun := by
  unfold Obligations.OnlyWellFormedInstructionsRun
  refine ⟨fun i s hwf => ?runs, fun i s hwf => ?refused,
    fun o => legal_iff_listed modesAlu o.mode, fun o => legal_iff_listed modesLdx o.mode,
    fun o => legal_iff_listed modesLdy o.mode, fun m => legal_iff_listed modesSta m.mode,
    fun m => legal_iff_listed modesStx m.mode, fun m => legal_iff_listed modesSty m.mode,
    fun o => legal_iff_listed modesAlu o.mode, fun o => legal_iff_listed modesAlu o.mode,
    fun o => legal_iff_listed modesAlu o.mode, fun o => legal_iff_listed modesCpx o.mode,
    fun o => legal_iff_listed modesCpx o.mode, fun m => legal_iff_listed modesInc m.mode,
    fun m => legal_iff_listed modesInc m.mode, fun o => legal_iff_listed modesAlu o.mode,
    fun o => legal_iff_listed modesAlu o.mode, fun o => legal_iff_listed modesAlu o.mode,
    fun m => legal_iff_listed modesBit m.mode, fun t => legal_iff_listed modesShift t.mode,
    fun t => legal_iff_listed modesShift t.mode, fun t => legal_iff_listed modesShift t.mode,
    fun t => legal_iff_listed modesShift t.mode⟩
  case runs =>
    obtain ⟨op, hop⟩ := exists_opcode_of_wf hwf
    exact exec_answers hop s
  case refused => exact (exec_meaning i s).refused_of_none (opcode_of_not_wf hwf)

end Sys2Proof.Machine
end

section
/-! SUPPORT. IRQ and NMI (60_exceptions.md): each is skipped or enters its handler, an NMI leaves a state in which IRQ is
skipped, and RTI takes back what an entry put on the stack. -/

namespace Sys2Proof.Machine

/-! ### Skipped or taken -/

/-- IRQ is masked by I (R241). -/
theorem irq_of_masked {s : State} (hI : s.flag .I = true) : irq s = startTransition s := by
  simp [irq, hI]

/-- What is left of IRQ where neither check skips it (R241, R245). -/
theorem irq_taken {s : State} (hs : s.t ≠ 0xFF) (hI : s.flag .I = false) :
    irq s = (enter irqVector s.pc (pushedByInterrupt s.p) (startTransition s)).setT interruptCycles := by
  simp [irq, not_jammed hs, hI]

/-- What is left of NMI on a block that is not jammed (R242, R245). -/
theorem nmi_taken {s : State} (hs : s.t ≠ 0xFF) :
    nmi s = (enter nmiVector s.pc (pushedByInterrupt s.p) (startTransition s)).setT interruptCycles := by
  simp [nmi, not_jammed hs]

theorem irq_entered {s : State} (hs : s.t ≠ 0xFF) (hI : s.flag .I = false) :
    Entered irqVector s.pc (pushedByInterrupt s.p) (startTransition s) (irq s) := by
  rw [irq_taken hs hI]
  exact (enter_entered (by decide) (by decide) _ _ _).setT

theorem nmi_entered {s : State} (hs : s.t ≠ 0xFF) :
    Entered nmiVector s.pc (pushedByInterrupt s.p) (startTransition s) (nmi s) := by
  rw [nmi_taken hs]
  exact (enter_entered (by decide) (by decide) _ _ _).setT

/-- Settles O53: a jam and I each skip IRQ, and nothing else does. -/
theorem irqEntersOrIsSkipped : Obligations.IrqEntersOrIsSkipped := by
  unfold Obligations.IrqEntersOrIsSkipped
  intro s
  exact ⟨irq_of_jammed, irq_of_masked, fun hs hI => ⟨irq_entered hs hI, by simp [irq_t hs, hI]⟩⟩

/-- Settles O54: a jam skips NMI, and nothing else does. -/
theorem nmiAlwaysEnters : Obligations.NmiAlwaysEnters := by
  unfold Obligations.NmiAlwaysEnters
  intro s
  exact ⟨nmi_of_jammed, fun hs => ⟨nmi_entered hs, nmi_t hs⟩⟩

/-! ### IRQ after NMI -/

/-- A taken NMI sets I, and a skipped one leaves the jam; either skips the IRQ after it (R248). -/
theorem irq_nmi (s : State) : irq (nmi s) = startTransition (nmi s) := by
  by_cases hs : s.t = 0xFF
  · have hjam : (nmi s).t = 0xFF := by rw [nmi_of_jammed hs]; exact hs
    exact irq_of_jammed hjam
  · obtain ⟨-, -, -, -, hI, -⟩ := nmi_entered hs
    exact irq_of_masked hI

/-- Settles O57: the host's order of pending requests is NMI and then IRQ. -/
theorem nmiMasksTheIrqAfterIt : Obligations.NmiMasksTheIrqAfterIt := by
  unfold Obligations.NmiMasksTheIrqAfterIt
  exact fun s => ⟨irq_nmi s, irq_nmi s⟩

/-! ### RTI after an entry -/

/-- State `u` goes on at `ret` with the registers and flags of `s`: all of them but B and U, which a copy of P on the
stack does not preserve (R250). -/
def ResumesAt (ret : Word) (s u : State) : Prop :=
  u.pc = ret ∧ u.sp = s.sp ∧ (∀ f, f ≠ .B → f ≠ .U → u.flag f = s.flag f) ∧ u.a = s.a ∧ u.x = s.x ∧ u.y = s.y

/-- T is no part of what is restored. -/
theorem ResumesAt.setT {ret : Word} {s u : State} (h : ResumesAt ret s u) {v : Byte} : ResumesAt ret s (u.setT v) := h

/-- The copies of P that an entry pushes preserve every flag but B and U (R204, R244). -/
theorem flagOf_pushedByInstruction_of_ne (p : Byte) {f : Flag} (hB : f ≠ .B) (hU : f ≠ .U) :
    flagOf (pushedByInstruction p) f = flagOf p f := by
  simp [hB, hU]

theorem flagOf_pushedByInterrupt_of_ne (p : Byte) {f : Flag} (hB : f ≠ .B) (hU : f ≠ .U) :
    flagOf (pushedByInterrupt p) f = flagOf p f := by
  simp [hB, hU]

/-- RTI loads every flag but B and U as it was pushed, whatever `PULL_P` is (R129). -/
theorem flagOf_pullP_of_ne (c : PullP) (v : Byte) {f : Flag} (hB : f ≠ .B) (hU : f ≠ .U) :
    flagOf (pullP c v) f = flagOf v f := by
  simp [hB, hU]

/-- RTI pulls the frame that an entry left in the three bytes above S, wherever S wraps, and no register but S, P and
PC (R205). -/
theorem returnFromInterrupt_of_frame {s : State} {sp : Byte} (hsp : s.sp = sp - 3) :
    (returnFromInterrupt s).pc = joinBytes (s.peek (stackAddr sp)) (s.peek (stackAddr (sp - 1))) ∧
    (returnFromInterrupt s).sp = sp ∧
    (returnFromInterrupt s).p = pullP s.cfg.pullP (s.peek (stackAddr (sp - 2))) ∧
    (returnFromInterrupt s).a = s.a ∧ (returnFromInterrupt s).x = s.x ∧ (returnFromInterrupt s).y = s.y := by
  simp [returnFromInterrupt_eq, hsp]

/-- RTI in the state that an entry left resumes at the entry's return address. -/
theorem Entered.rti_resumesAt {vector ret : Word} {pushed : Byte} {s t u : State} (h : Entered vector ret pushed s t)
    (hpushed : ∀ f, f ≠ .B → f ≠ .U → flagOf pushed f = s.flag f) (hu : exec .rti t = .next u) :
    ResumesAt ret s u := by
  obtain rfl := Host.Outcome.next.inj ((exec_rti t).symm.trans hu)
  obtain ⟨hhi, hlo, hcopy, hsp, -, -, ⟨ha, hx, hy, -⟩, -⟩ := h
  obtain ⟨hpc, hsp', hp, ha', hx', hy'⟩ := returnFromInterrupt_of_frame hsp
  have hflag : ∀ f, f ≠ .B → f ≠ .U → (returnFromInterrupt t).flag f = s.flag f := fun f hB hU => by
    rw [State.flag, hp, hcopy, flagOf_pullP_of_ne _ _ hB hU, hpushed f hB hU]
  have hret : (returnFromInterrupt t).pc = ret := by rw [hpc, hhi, hlo, joinBytes_hi_lo]
  have hresumes : ResumesAt ret s (returnFromInterrupt t) :=
    ⟨hret, hsp', hflag, ha'.trans (ha rfl), hx'.trans (hx rfl), hy'.trans (hy rfl)⟩
  exact hresumes.setT

/-- Settles O49: BRK, a taken IRQ and an NMI are entries that differ in their return address and pushed copy of P. -/
theorem rtiUndoesEntry : Obligations.RtiUndoesEntry := by
  unfold Obligations.RtiUndoesEntry
  refine ⟨fun s t u hbrk hrti => ?brk, fun s u hs hI hrti => ?irq, fun s u hs hrti => ?nmi⟩
  case brk =>
    obtain ⟨t', hbrk', -, -, hentered⟩ := brkEntersTheHandler s
    obtain rfl := Host.Outcome.next.inj (hbrk.symm.trans hbrk')
    exact hentered.rti_resumesAt (fun f => flagOf_pushedByInstruction_of_ne s.p) hrti
  case irq => exact (irq_entered hs hI).rti_resumesAt (fun f => flagOf_pushedByInterrupt_of_ne s.p) hrti
  case nmi => exact (nmi_entered hs).rti_resumesAt (fun f => flagOf_pushedByInterrupt_of_ne s.p) hrti

end Sys2Proof.Machine
end

section
/-! SUPPORT. The encoder against the decoder (30_encoding.md): a cell of the opcode map gives the instruction that has
the cell's opcode and the bytes given to it as its operand, and takes as many of them as the opcode says. So decoding
takes back what encoding wrote, and encoding gives the bytes that decoding took. -/

namespace Sys2Proof

/-! ### The bytes of an instruction -/

/-- An instruction is its opcode and its operand bytes (R61). -/
theorem length_eq_operandBytes (i : Instr) : i.length = i.operandBytes.length + 1 := by
  cases i with
  | lda o | ldx o | ldy o | adc o | sbc o | cmp o | cpx o | cpy o | and o | ora o | eor o =>
    cases o with
    | imm v => rfl
    | mem m => cases m <;> rfl
  | sta m | stx m | sty m | inc m | dec m | bit m => cases m <;> rfl
  | asl t | lsr t | rol t | ror t =>
    cases t with
    | acc => rfl
    | mem m => cases m <;> rfl
  | _ => rfl

/-- The memory operand of the same mode with other operand bytes. -/
def Address.withBytes (m : Address) (b1 b2 : Byte) : Address :=
  match m with
  | .zp _   => .zp b1
  | .zpX _  => .zpX b1
  | .zpY _  => .zpY b1
  | .abs _  => .abs (joinBytes b2 b1)
  | .absX _ => .absX (joinBytes b2 b1)
  | .absY _ => .absY (joinBytes b2 b1)
  | .indX _ => .indX b1
  | .indY _ => .indY b1

theorem Address.withBytes_bytes (m : Address) : m.withBytes (m.bytes.getD 0 0) (m.bytes.getD 1 0) = m := by
  cases m with
  | abs a => exact congrArg Address.abs (joinBytes_hi_lo a)
  | absX a => exact congrArg Address.absX (joinBytes_hi_lo a)
  | absY a => exact congrArg Address.absY (joinBytes_hi_lo a)
  | _ => rfl

end Sys2Proof

namespace Sys2Proof.Machine

/-! ### The cells of the opcode map -/

/-- No mode is longer than three bytes (R61). -/
theorem operandCount_le (op : Byte) : operandCount op ≤ 2 := by
  have hmode : ∀ m : Mode, m.length ≤ 3 := fun m => by cases m <;> decide
  have := hmode (decodeOp op 0 0).mode
  simp only [operandCount, Instr.length]
  omega

/-- Two functions of an opcode are equal when they are in every row of the opcode map (R83). -/
theorem eq_of_rows {α : Type} {f g : Byte → α}
    (h : ((List.range 16).map fun hi => (List.range 16).map fun lo => f (BitVec.ofNat 8 (16 * hi + lo))) =
      (List.range 16).map fun hi => (List.range 16).map fun lo => g (BitVec.ofNat 8 (16 * hi + lo)))
    (op : Byte) : f op = g op := by
  have hrow := List.map_inj_left.mp h (op.toNat / 16) (by simp; omega)
  simpa [Nat.div_add_mod] using List.map_inj_left.mp hrow (op.toNat % 16) (by simp; omega)

/-- The operand bytes of a cell, as the cell holds them: two bytes stand joined in one word (R43). -/
def cellOperand (op b1 b2 : Byte) : List Byte :=
  match operandCount op with
  | 0 => []
  | 1 => [b1]
  | _ => [loByte (joinBytes b2 b1), hiByte (joinBytes b2 b1)]

theorem cellOperand_eq_take (op b1 b2 : Byte) : cellOperand op b1 b2 = [b1, b2].take (operandCount op) := by
  have hle := operandCount_le op
  unfold cellOperand
  split
  · next h => rw [h]; rfl
  · next h => rw [h]; rfl
  · next h0 h1 =>
    have h0 : operandCount op ≠ 0 := h0
    have h1 : operandCount op ≠ 1 := h1
    have h : operandCount op = 2 := by omega
    rw [h, loByte_joinBytes, hiByte_joinBytes]
    rfl

/-- A cell's instruction takes the bytes given to it, as many as its opcode says (R60, R85). -/
theorem decodeOp_operandBytes (op b1 b2 : Byte) :
    (decodeOp op b1 b2).operandBytes = [b1, b2].take (operandCount op) := by
  rw [← cellOperand_eq_take]
  exact eq_of_rows (f := fun op => (decodeOp op b1 b2).operandBytes) (g := fun op => cellOperand op b1 b2) rfl op

theorem decodeOp_operandBytes_length (op b1 b2 : Byte) :
    (decodeOp op b1 b2).operandBytes.length = operandCount op := by
  rw [decodeOp_operandBytes, List.length_take]
  exact Nat.min_eq_left (operandCount_le op)

/-! ### The cell of an instruction's opcode -/

/-- A cell that puts its bytes into a memory operand gives back the operand whose bytes it is given. -/
theorem decodeOp_address {op : Byte} {mk : Address → Instr} (m : Address)
    (h : ∀ b1 b2, decodeOp op b1 b2 = mk (m.withBytes b1 b2)) :
    decodeOp op (m.bytes.getD 0 0) (m.bytes.getD 1 0) = mk m := by
  rw [h, Address.withBytes_bytes]

/-- A cell that joins its bytes to a word gives back the word whose bytes it is given. -/
theorem decodeOp_word {op : Byte} {mk : Word → Instr} (a : Word)
    (h : ∀ b1 b2, decodeOp op b1 b2 = mk (joinBytes b2 b1)) : decodeOp op (loByte a) (hiByte a) = mk a := by
  rw [h, joinBytes_hi_lo]

/-- The opcode map has each instruction in the cell of its opcode (R83's two tables agree). -/
theorem decodeOp_of_opcode {i : Instr} {op : Byte} (h : i.opcode = some op) :
    decodeOp op (i.operandBytes.getD 0 0) (i.operandBytes.getD 1 0) = i := by
  cases i with
  | lda o | ldx o | ldy o | adc o | sbc o | cmp o | cpx o | cpy o | and o | ora o | eor o =>
    cases o with
    | imm v => cases h; rfl
    | mem m => apply decodeOp_address m; cases m <;> cases h <;> exact fun _ _ => rfl
  | sta m | stx m | sty m | inc m | dec m | bit m =>
    apply decodeOp_address m; cases m <;> cases h <;> exact fun _ _ => rfl
  | asl t | lsr t | rol t | ror t =>
    cases t with
    | acc => cases h; rfl
    | mem m => apply decodeOp_address m; cases m <;> cases h <;> exact fun _ _ => rfl
  | jmp a | jmpInd a | jsr a => apply decodeOp_word a; cases h; exact fun _ _ => rfl
  | jam op' =>
    obtain ⟨hmem, rfl⟩ : op' ∈ invalidOpcodes ∧ op' = op := by simpa [Instr.opcode] using h
    exact decodeOp_eq_jam hmem _ _
  | _ => cases h; rfl

/-! ### Encoding and decoding -/

/-- An opcode with its operand bytes decodes to its cell, whatever follows them. -/
theorem decode_cons {op : Byte} {bytes : List Byte} (h : bytes.length = operandCount op) (rest : List Byte) :
    decode (op :: (bytes ++ rest)) = .ok (decodeOp op (bytes.getD 0 0) (bytes.getD 1 0), rest) := by
  have hle := operandCount_le op
  match bytes, h with
  | [], h | [b1], h | [b1, b2], h => simp [decode, ← h]
  | _ :: _ :: _ :: _, h => simp only [List.length_cons] at h; omega

theorem encode_of_opcode {i : Instr} {op : Byte} (h : i.opcode = some op) : encode i = some (op :: i.operandBytes) := by
  rw [encode, h]
  rfl

/-- Decoding takes back an instruction's bytes and leaves the others. -/
theorem decode_opcode_operandBytes {i : Instr} {op : Byte} (h : i.opcode = some op) (rest : List Byte) :
    decode (op :: (i.operandBytes ++ rest)) = .ok (i, rest) := by
  have hcell := decodeOp_of_opcode h
  have hlength := decodeOp_operandBytes_length op (i.operandBytes.getD 0 0) (i.operandBytes.getD 1 0)
  rw [hcell] at hlength
  rw [decode_cons hlength, hcell]

/-- Settles O1: a well-formed instruction has an opcode, and the opcode map has it in that opcode's cell. -/
theorem decodeOfEncode : Obligations.DecodeOfEncode := by
  unfold Obligations.DecodeOfEncode
  intro i hwf
  obtain ⟨op, hop⟩ := exists_opcode_of_wf hwf
  exact ⟨_, encode_of_opcode hop, decode_opcode_operandBytes hop⟩

/-- Settles O2: a cell's instruction has the cell's opcode and the bytes given to it, so O1's round trip is the decoding
that is asked for. -/
theorem encodeOfDecode : Obligations.EncodeOfDecode := by
  unfold Obligations.EncodeOfDecode
  intro op b1 b2
  have hop := decodeOp_opcode op b1 b2
  have hbytes : op :: ((decodeOp op b1 b2).operandBytes ++ [b1, b2].drop (operandCount op)) = [op, b1, b2] := by
    rw [decodeOp_operandBytes, List.take_append_drop]
  have hdecode := decode_opcode_operandBytes hop ([b1, b2].drop (operandCount op))
  have hwf : (decodeOp op b1 b2).wf = true := by rw [← opcode_isSome, hop]; rfl
  rw [hbytes] at hdecode
  exact ⟨_, _, hdecode, hwf, _, encode_of_opcode hop, hbytes, (length_eq_operandBytes _).symm⟩

/-- Settles O4: each word evaluates to its instruction. -/
theorem sampleWordsDecode : Obligations.SampleWordsDecode := by
  unfold Obligations.SampleWordsDecode
  exact ⟨rfl, rfl, rfl, rfl, rfl, rfl, rfl, rfl, rfl, rfl, rfl⟩

end Sys2Proof.Machine
end

section
/-! SUPPORT. A Step is the meaning of what the bytes at PC decode to (R80), after the reads of its own bytes (R53). -/

namespace Sys2Proof.Machine

/-- The reads of a fetch are those of the addresses from PC on, one for each byte. -/
theorem fetchReads_eq_range (pc : Word) {n : Nat} (hn : n ≤ 2) :
    fetchReads pc n = (List.range (n + 1)).map fun k => Access.read (pc + BitVec.ofNat 16 k) := by
  match n, hn with
  | 0, _ | 1, _ | 2, _ => simp [fetchReads, List.range_succ]

/-- A fetch reads as many bytes as the fetched instruction has. -/
theorem operandCount_add_one_eq_length (s : State) :
    operandCount (s.peek s.pc) + 1 = (fetch (startTransition s)).instr.length := by
  obtain ⟨b1, b2, hi⟩ := fetch_startTransition_instr s
  rw [hi, length_eq_operandBytes, decodeOp_operandBytes_length]

/-- Settles O6: a Step fetches the instruction that the bytes decode to, and its fetch reads that instruction's bytes. -/
theorem stepRunsTheDecodedInstruction : Obligations.StepRunsTheDecodedInstruction := by
  unfold Obligations.StepRunsTheDecodedInstruction
  intro s i rest hs hi
  have hinstr : (fetch (startTransition s)).instr = i := fetch_instr_of_decode (s := startTransition s) hi
  have hstate : (fetch (startTransition s)).state = s.setBus (fetchReads s.pc (operandCount (s.peek s.pc))) :=
    fetch_state (startTransition s)
  rw [step_of_not_jammed hs, hstate, fetchReads_eq_range s.pc (operandCount_le _), operandCount_add_one_eq_length, hinstr]

end Sys2Proof.Machine
end

section
/-! SUPPORT. The canonical form of memory makes it data (20_memory.md section 1): what a memory reads decides its list of
cells. -/

namespace Sys2Proof.Machine

@[simp] theorem read_cons (k a : Nat) (v : Byte) (rest : Memory) :
    Memory.read ((k, v) :: rest) a = if k = a then v else Memory.read rest a := rfl

/-- Where the first listed address of one canonical memory reads alike in another, the other lists no later one
first. -/
theorem head_le_of_read_eq {lo lo' k k' : Nat} {v v' : Byte} {rest rest' : Memory}
    (h : Memory.wfFrom lo ((k, v) :: rest) = true) (h' : Memory.wfFrom lo' ((k', v') :: rest') = true)
    (hread : Memory.read ((k, v) :: rest) k = Memory.read ((k', v') :: rest') k) : k' ≤ k := by
  obtain ⟨-, -, hv, -⟩ := wfFrom_head h
  obtain ⟨-, -, -, hrest'⟩ := wfFrom_head h'
  refine Nat.le_of_not_lt fun hlt => ?_
  have hunlisted : Memory.read rest' k = Memory.unlisted := read_below hrest' (by omega)
  rw [read_cons, read_cons, if_pos rfl, if_neg (by omega), hunlisted] at hread
  exact hv hread

/-- A memory that lists a cell does not read as an empty one there. -/
theorem read_head_ne_unlisted {lo k : Nat} {v : Byte} {rest : Memory}
    (h : Memory.wfFrom lo ((k, v) :: rest) = true) : Memory.read ((k, v) :: rest) k ≠ Memory.unlisted := by
  obtain ⟨-, -, hv, -⟩ := wfFrom_head h
  rwa [read_cons, if_pos rfl]

/-- Canonical memories that read alike at every address list the same cells. -/
theorem eq_of_read_eq {m m' : Memory} {lo lo' : Nat} (h : Memory.wfFrom lo m = true) (h' : Memory.wfFrom lo' m' = true)
    (hread : ∀ a, a < Memory.size → Memory.read m a = Memory.read m' a) : m = m' := by
  induction m generalizing m' lo lo' with
  | nil =>
    cases m' with
    | nil => rfl
    | cons c' rest' =>
      obtain ⟨-, hk', -, -⟩ := wfFrom_head h'
      exact absurd (hread _ hk').symm (read_head_ne_unlisted h')
  | cons c rest ih =>
    obtain ⟨k, v⟩ := c
    obtain ⟨-, hk, -, hrest⟩ := wfFrom_head h
    cases m' with
    | nil => exact absurd (hread k hk) (read_head_ne_unlisted h)
    | cons c' rest' =>
      obtain ⟨k', v'⟩ := c'
      obtain ⟨-, hk', -, hrest'⟩ := wfFrom_head h'
      obtain rfl : k = k' := Nat.le_antisymm (head_le_of_read_eq h' h (hread k' hk').symm)
        (head_le_of_read_eq h h' (hread k hk))
      obtain rfl : v = v' := by simpa using hread k hk
      have hread' : ∀ a, a < Memory.size → Memory.read rest a = Memory.read rest' a := by
        intro a ha
        by_cases hka : k = a
        · rw [read_below hrest (by omega), read_below hrest' (by omega)]
        · simpa [hka] using hread a ha
      rw [ih hrest hrest' hread']

/-- Settles O11: Reset's memory lists nothing, and reads decide a canonical list of cells. -/
theorem canonicalMemoriesAreData : Obligations.CanonicalMemoriesAreData := by
  unfold Obligations.CanonicalMemoriesAreData
  exact ⟨rfl, fun m m' h h' hread => eq_of_read_eq h h' hread⟩

end Sys2Proof.Machine
end

section
/-! SUPPORT. Decimal ADC and SBC of decimal numbers (42_arithmetic.md sections 2 and 3): each corrected nibble is one
decimal digit with a carry or borrow, so two of them are a sum or a difference of numbers below a hundred. And decimal
SBC with free values (R147). -/

namespace Sys2Proof.Machine

open OpcodeTable

theorem toNat_decide (p : Prop) [Decidable p] : (decide p).toNat = if p then 1 else 0 := by
  by_cases h : p <;> simp [h]

/-! ### ADC -/

/-- A sum of two digits and a carry, corrected as R142 does (six is added above 9), is one digit and a carry out. -/
theorem corrected_sum_digit {n r : Nat} (hn : n ≤ 19) (hr : r = if 9 < n then n + 6 else n) :
    r % 16 ≤ 9 ∧ r % 16 + 10 * (if 15 < r then 1 else 0) = n := by
  split at hr <;> split <;> omega

/-- The two digits of the result are the corrected nibbles (R142). -/
theorem adcDecimalValue_digits (a m : Byte) (cin : Bool) :
    (adcDecimalValue a m cin).toNat / 16 = adcHigh a m cin % 16 ∧
      (adcDecimalValue a m cin).toNat % 16 = adcLow a m cin % 16 := by
  rw [adcDecimalValue_toNat]
  omega

/-- The result holds the sum's two digits, and the carry a hundred (R142). -/
theorem adcDecimalValue_bcd {a m : Byte} (ha : isBcd a) (hm : isBcd m) (cin : Bool) :
    isBcd (adcDecimalValue a m cin) ∧
      bcd (adcDecimalValue a m cin) + 100 * (decide (15 < adcHigh a m cin)).toNat = bcd a + bcd m + cin.toNat := by
  obtain ⟨hah, hal⟩ := ha
  obtain ⟨hmh, hml⟩ := hm
  have hcin := cin.toNat_le
  have hcarry : (if 15 < adcLow a m cin then 1 else 0) ≤ 1 := by split <;> decide
  obtain ⟨hlow, hlowSum⟩ := corrected_sum_digit (r := adcLow a m cin) (n := a.toNat % 16 + m.toNat % 16 + cin.toNat)
    (by omega) rfl
  obtain ⟨hhigh, hhighSum⟩ := corrected_sum_digit (r := adcHigh a m cin)
    (n := a.toNat / 16 + m.toNat / 16 + (if 15 < adcLow a m cin then 1 else 0)) (by omega) rfl
  obtain ⟨hvalueHigh, hvalueLow⟩ := adcDecimalValue_digits a m cin
  rw [isBcd, bcd, bcd, bcd, hvalueHigh, hvalueLow, toNat_decide]
  omega

/-- Settles O32: A and C of a decimal ADC are the digits and the hundred of the sum. -/
theorem adcDecimalAddsDecimalNumbers : Obligations.AdcDecimalAddsDecimalNumbers := by
  unfold Obligations.AdcDecimalAddsDecimalNumbers
  intro o s t hD ha hm ht
  have hresult := exec_adc_hasResult ht
  rw [adcResult_decimal hD] at hresult
  rw [hresult.a, hresult.c, adcDecimal_value, adcDecimal_c]
  exact adcDecimalValue_bcd ha hm (s.flag .C)

/-! ### SBC -/

/-- A difference of two digits and a borrow, corrected as R145 does, is one digit and a borrow out. -/
theorem sbcCorrected_digit {n : Int} (hlo : -10 ≤ n) (hhi : n ≤ 9) :
    sbcCorrected n % 16 ≤ 9 ∧ sbcCorrected n % 16 = n + 10 * (if n < 0 then 1 else 0) := by
  unfold sbcCorrected
  split <;> omega

/-- The binary difference borrows exactly when the decimal one's high nibble does (R145). -/
theorem subDifference_nonneg_iff (a m : Byte) (cin : Bool) : 0 ≤ subDifference a m cin ↔ 0 ≤ sbcHigh a m cin := by
  have := cin.toNat_le
  rw [subDifference, sbcHigh_eq, sbcLow_eq]
  split <;> omega

/-- The two digits of the result are the corrected nibbles (R145). -/
theorem sbcDecimalValue_digits (a m : Byte) (cin : Bool) :
    ((sbcDecimalValue a m cin).toNat : Int) / 16 = sbcCorrected (sbcHigh a m cin) % 16 ∧
      ((sbcDecimalValue a m cin).toNat : Int) % 16 = sbcCorrected (sbcLow a m cin) % 16 := by
  rw [sbcDecimalValue_toNat]
  omega

/-- The result holds the difference's two digits, and the borrow a hundred (R145). -/
theorem sbcDecimalValue_bcd {a m : Byte} (ha : isBcd a) (hm : isBcd m) (cin : Bool) :
    isBcd (sbcDecimalValue a m cin) ∧
      bcd (sbcDecimalValue a m cin) + bcd m + (1 - cin.toNat) =
        bcd a + 100 * (1 - (sbcBinary a m cin).c.toNat) := by
  obtain ⟨hah, hal⟩ := ha
  obtain ⟨hmh, hml⟩ := hm
  have hcin := cin.toNat_le
  have hborrow : (if sbcLow a m cin < 0 then 1 else 0 : Int) = 0 ∨ (if sbcLow a m cin < 0 then 1 else 0 : Int) = 1 := by
    split <;> simp
  have hlowEq := sbcLow_eq a m cin
  have hhighEq : sbcHigh a m cin = (a.toNat : Int) / 16 - m.toNat / 16 - (if sbcLow a m cin < 0 then 1 else 0) := rfl
  obtain ⟨hlow, hlowDiff⟩ := sbcCorrected_digit (n := sbcLow a m cin) (by omega) (by omega)
  obtain ⟨hhigh, hhighDiff⟩ := sbcCorrected_digit (n := sbcHigh a m cin) (by omega) (by omega)
  obtain ⟨hvalueHigh, hvalueLow⟩ := sbcDecimalValue_digits a m cin
  have hC : (sbcBinary a m cin).c = decide (0 ≤ sbcHigh a m cin) := decide_eq_decide.mpr (subDifference_nonneg_iff a m cin)
  rw [isBcd, bcd, bcd, bcd, hC, toNat_decide]
  split <;> omega

/-- Settles O34: A of a decimal SBC is the digits of the difference, and C its borrow. -/
theorem sbcDecimalSubtractsDecimalNumbers : Obligations.SbcDecimalSubtractsDecimalNumbers := by
  unfold Obligations.SbcDecimalSubtractsDecimalNumbers
  intro o s t hD hfixed ha hm ht
  have hresult := exec_sbc_hasResult ht
  rw [sbcResult_fixed hD hfixed] at hresult
  rw [hresult.a, hresult.c, sbcDecimal_value, sbcDecimal_c]
  exact sbcDecimalValue_bcd ha hm (s.flag .C)

/-! ### SBC with free values -/

theorem sbcDraws_unconstrained {s : State} (hD : s.flag .D = true) (hfree : s.cfg.sbcArgBug = .unconstrained) :
    sbcDraws s = 2 := by
  rw [sbcDraws, if_pos hD, hfree]

theorem OnlyWrites.setDraws {w : Writes} {s u : State} (h : OnlyWrites w s u) {n : Nat} (hw : w.draws = true := by rfl) :
    OnlyWrites w s (u.setDraws n) := by
  obtain ⟨ha, hx, hy, hsp, hflag, hpeek, hcfg, -⟩ := h
  exact ⟨ha, hx, hy, hsp, hflag, hpeek, hcfg, fun hno => absurd hw (by simp [hno])⟩

/-- Settles O35: whatever its result is, SBC completes in its form, and in this mode it draws two free values. -/
theorem sbcUnconstrainedCompletes : Obligations.SbcUnconstrainedCompletes := by
  unfold Obligations.SbcUnconstrainedCompletes
  intro f hf o s hmode hD hfree
  have hform : HasForm f (.sbc o) := .ofSource (r := rowSBC) rfl (by decide) hf hmode
  rw [exec_sbc, sbcDraws_unconstrained hD hfree]
  exact ⟨_, hform.completes, OnlyWrites.operandRead.setAlu.setDraws.setT, Nat.lt_add_of_pos_right (by decide),
    hform.ends rfl, rfl⟩

end Sys2Proof.Machine
end

section
/-! SUPPORT. RTS after JSR (R192, R193): the pull takes back what the push put on the stack. -/

namespace Sys2Proof.Machine

/-- A pull of an address takes the two bytes above S, wherever S wraps, and puts S back over them (R48). -/
theorem pullWord_of_frame {s : State} {sp : Byte} (hsp : s.sp = sp - 2) :
    (pullWord s).1 = joinBytes (s.peek (stackAddr sp)) (s.peek (stackAddr (sp - 1))) ∧ (pullWord s).2.sp = sp := by
  simp [hsp]

/-- Settles O45: RTS pulls the address that JSR pushed, the one of JSR's last byte, and goes one past it. -/
theorem returnUndoesCall : Obligations.ReturnUndoesCall := by
  unfold Obligations.ReturnUndoesCall
  intro a s t u ht hu
  obtain ⟨t', ht', -, -, -, hsp, hhi, hlo, ⟨ha, hx, hy, -, hflag, -⟩, -⟩ := subroutineCallAndReturn.1 a s
  obtain rfl := Host.Outcome.next.inj (ht.symm.trans ht')
  obtain rfl := Host.Outcome.next.inj ((exec_rts t).symm.trans hu)
  obtain ⟨hret, hsp'⟩ := pullWord_of_frame hsp
  have hpc : (pullWord t).1 + 1 = s.pc + 3 := by rw [hret, hhi, hlo, joinBytes_hi_lo, BitVec.add_assoc]; rfl
  have hp : t.p = s.p := flagOf_ext fun f => hflag f (by simp)
  exact ⟨hpc, hsp', hp, ha rfl, hx rfl, hy rfl⟩

end Sys2Proof.Machine
end

section
/-! SUPPORT. T is read by the jam checks alone (R290): every meaning carries T along until it sets it at its end, so no
outcome depends on the T it began with; and so do the entries and Reset. -/

namespace Sys2Proof.Machine

/-! ### Meanings -/

theorem branch_setT (i : Instr) (off : Byte) (taken : Bool) (s : State) (v : Byte) :
    branch i off taken (s.setT v) = branch i off taken s := by
  cases hop : i.opcode with
  | none => rw [branch_of_none hop, branch_of_none hop]
  | some op =>
    cases taken with
    | true => rw [branch_taken hop, branch_taken hop]; rfl
    | false => rw [branch_not_taken hop, branch_not_taken hop]; rfl

theorem execJam_setT (op : Byte) (s : State) (v : Byte) : execJam op (s.setT v) = execJam op s := by
  cases hop : (Instr.jam op).opcode with
  | none => simp only [execJam, hop]
  | some op' =>
    simp only [execJam, hop, halt_eq]
    rfl

/-- T is overwritten: with its operand's mode known, an instruction's two outcomes are one term. -/
theorem exec_setT (i : Instr) (s : State) (v : Byte) : exec i (s.setT v) = exec i s := by
  cases i with
  | lda o | ldx o | ldy o | adc o | sbc o | cmp o | cpx o | cpy o | and o | ora o | eor o =>
    cases o with
    | imm v => rfl
    | mem m => cases m <;> rfl
  | sta m | stx m | sty m | inc m | dec m | bit m => cases m <;> rfl
  | asl t | lsr t | rol t | ror t =>
    cases t with
    | acc => rfl
    | mem m => cases m <;> rfl
  | bcc off => exact branch_setT (.bcc off) off (!s.flag .C) s v
  | bcs off => exact branch_setT (.bcs off) off (s.flag .C) s v
  | beq off => exact branch_setT (.beq off) off (s.flag .Z) s v
  | bne off => exact branch_setT (.bne off) off (!s.flag .Z) s v
  | bmi off => exact branch_setT (.bmi off) off (s.flag .N) s v
  | bpl off => exact branch_setT (.bpl off) off (!s.flag .N) s v
  | bvc off => exact branch_setT (.bvc off) off (!s.flag .V) s v
  | bvs off => exact branch_setT (.bvs off) off (s.flag .V) s v
  | jam op => exact execJam_setT op s v
  | _ => rfl

/-! ### Transitions -/

/-- Fetching hands T on. -/
theorem fetch_setT (s : State) (v : Byte) :
    (fetch (s.setT v)).instr = (fetch s).instr ∧ (fetch (s.setT v)).state = (fetch s).state.setT v := by
  simp only [fetch_instr, fetch_state]
  exact ⟨rfl, rfl⟩

/-- A Step of a block that is not jammed does not depend on T, nor on the last transition's accesses. -/
theorem step_setT_setBus {s : State} {v : Byte} (hs : s.t ≠ 0xFF) (hv : v ≠ 0xFF) (l : List Access) :
    step ((s.setT v).setBus l) = step s := by
  have hstart : startTransition ((s.setT v).setBus l) = (startTransition s).setT v := rfl
  obtain ⟨hinstr, hstate⟩ := fetch_setT (startTransition s) v
  rw [step_of_not_jammed hs, step_of_not_jammed (s := (s.setT v).setBus l) hv, hstart, hinstr, hstate, exec_setT]

/-- Settles O14: a Step by `exec_setT`, and each entry and Reset set T themselves. -/
theorem onlyTheJamCheckReadsT : Obligations.OnlyTheJamCheckReadsT := by
  unfold Obligations.OnlyTheJamCheckReadsT
  intro s v l hs hv
  refine ⟨step_setT_setBus hs hv l, ?nmi, fun hI => ?irq, rfl⟩
  case nmi =>
    rw [nmi_taken hs, nmi_taken (s := (s.setT v).setBus l) hv]
    rfl
  case irq =>
    rw [irq_taken hs hI, irq_taken (s := (s.setT v).setBus l) hv hI]
    rfl

end Sys2Proof.Machine
end

section
/-! SUPPORT. Reset (70_reset_and_hazards.md): what it leaves of any state, and the model's reset state as one of them. -/

namespace Sys2Proof.Machine

/-- Settles O55: Reset is a chain of updates around the two reads of its vector; T's draw is below the sentinel. -/
theorem resetTransitionLeavesItsState : Obligations.ResetTransitionLeavesItsState := by
  unfold Obligations.ResetTransitionLeavesItsState
  intro s
  have hp : (resetBlock s).p = resetStatus s.cfg.resetP s.p := rfl
  refine ⟨rfl, rfl, rfl, rfl, rfl, rfl, ?_, resetBlock_t s, rfl, rfl, rfl⟩
  rw [hp]
  cases s.cfg.resetP <;> rfl

/-- A block before its first Reset, with nothing in memory and every register zero. -/
def State.blank : State := { State.reset with sp := 0x00, p := 0x00, t := 0x00 }

/-- Settles O56: the blank block, reset with 7 as the draw of T. -/
theorem resetStateComesFromReset : Obligations.ResetStateComesFromReset := by
  unfold Obligations.ResetStateComesFromReset
  exact ⟨7, State.blank, rfl, rfl, rfl, rfl, rfl, rfl, rfl, rfl, by decide⟩

end Sys2Proof.Machine
end
